-- ==== Sys2Proof/Word.lean ====
section
/-! DEFINITION. The widths the spec fixes (spec/00_scope.md R4, R5): every value is unsigned and bit 0 is the least
significant bit. -/

namespace Sys2Proof

/-- A command word `CW`, 20 bits (R70). -/
abbrev CmdWord := BitVec 20

/-- The opcode on `cmd_op` (R31, R70). -/
abbrev Opcode := BitVec 4

/-- The argument on `cmd_arg` (R31, R70). -/
abbrev Arg := BitVec 16

/-- The data nibble, "4-bit unsigned value" (R4, R20). -/
abbrev Nibble := BitVec 4

/-- The transmitted unit (R4). -/
abbrev Byte := BitVec 8

/-- A millisecond count or a clock-cycle count of the timer (R4: `COUNT_W` and `TW` are 16). -/
abbrev Count := BitVec 16

/-- The six port bits the block owns, which are also the six pins (R22, R23, R51). -/
abbrev Pins := BitVec 6

end Sys2Proof
end

