-- ==== Sys2Proof/Config.lean ====
section
/-! DEFINITION. What an implementation fixes and what the spec leaves open (spec/00_scope.md R4, 93 U5, U6, U13).
The constants without a body are free values: nothing can be proved of what they are. -/

namespace Sys2Proof

/-- The clock rate the spec leaves open, before its range is imposed (R4, D12). Log entry 2. -/
opaque Config.ticksPerMsOpen : Count

/-- `TICKS_PER_MS`, `T`: "named parameter, `2 <= T <= 65535`" (R4, R173). Every value of that range is possible and
none is chosen. It is the value of the field `ticksPerMs` in `State.reset` only: a step reads the field. Log entry 2. -/
def Config.ticksPerMs : Count :=
  if Config.ticksPerMsOpen.toNat < 2 then 2 else Config.ticksPerMsOpen

/-- `POUT_POWERON`: "any `PORT_W`-bit value, not chosen by the model" (R4, R30, U6), at the spec's default width 8.
Log entry 4. -/
opaque Config.poutPowerOn : BitVec 8

/-- The level of the pins at a moment when `io_enable = 0`: "any value, possibly changing" (R23, U5), indexed by the
number of clock edges so far. Log entry 7. -/
opaque Config.undrivenPins : Nat → Pins

/-- `CURSOR_PIVOT`: "first logical position mapped to the second display row" (R4, R128, D21). -/
def Config.cursorPivot : Nat := 15

/-- `I_SETDDRAM`, the set-DDRAM-address instruction with address 0 (R4). -/
def Config.iSetDdram : Byte := 0x80

/-- The named parameters of the host sequences (R4, U13; R124, R126, R127, R130). The spec gives no value for any of
them, so they are an argument. Log entry 17. -/
structure HostParams where
  /-- `INIT_W1`, milliseconds after the first `0x3` pulse. -/
  initW1 : Count
  /-- `INIT_W2`. -/
  initW2 : Count
  /-- `INIT_W3`. -/
  initW3 : Count
  /-- `I_HOME`, return-cursor-home. -/
  iHome : Byte
  /-- `I_ENTRY`, entry-mode with auto-increment. -/
  iEntry : Byte
  /-- `I_DISPON`, display on with blinking cursor. -/
  iDispOn : Byte
  /-- `I_CLEAR`, clear-display. -/
  iClear : Byte
  /-- `DEMO_STRING`, the fixed literal of the demonstration phase. -/
  demoString : List Byte
deriving DecidableEq, Repr

end Sys2Proof
end

