-- ==== Sys2Proof/Syntax.lean ====
section
/-! DEFINITION. The commands of the block and the host's pseudo-commands (spec/30_encoding.md R71, R72, R77). -/

namespace Sys2Proof

/-- The seven commands, one constructor per row of the opcode map (R72), each with its operand of R71. -/
inductive Instr
  /-- `SETRS v`, write the register-select field (R100). -/
  | setrs (v : BitVec 1)
  /-- `SETEN v`, write the enable field (R101). -/
  | seten (v : BitVec 1)
  /-- `SETNIB n`, write the data-nibble field (R102). -/
  | setnib (n : Nibble)
  /-- `FLUSH`, write the pin-state register to the port (R103). -/
  | flush
  /-- `DELAY count`, wait `count` milliseconds (R90). -/
  | delay (count : Count)
  /-- `SENDI b`, send a byte as an instruction of the LCD controller (R111). -/
  | sendi (b : Byte)
  /-- `SENDD b`, send a byte as character data (R112). -/
  | sendd (b : Byte)
deriving DecidableEq, Repr

/-- The six pseudo-commands (R77): names for fixed lists of commands issued by the host; they have no opcode. A cursor
position is a natural number, since the caller may give one outside 0 to 31 (R128). -/
inductive Pseudo
  /-- One enable pulse, then a wait (R121). -/
  | pulse (w : Count)
  /-- A half-transfer (R122). -/
  | sendNib (n : Nibble) (w : Count)
  /-- The initialization sequence (R123 to R126). -/
  | init
  /-- Place the LCD controller's cursor (R128). -/
  | setCursor (p : Nat)
  /-- Write a string from position 0 (R129). -/
  | sendString (s : List Byte)
  /-- Clear the display (R130). -/
  | clear
deriving DecidableEq, Repr

/-- The opcode of each command (R72, D4). -/
def Instr.opcode : Instr → Opcode
  | .setrs _ => 1
  | .seten _ => 2
  | .setnib _ => 3
  | .flush => 4
  | .delay _ => 5
  | .sendi _ => 6
  | .sendd _ => 7

end Sys2Proof
end

