-- ==== Sys2Proof/Machine/State.lean ====
section
/-! DEFINITION. The machine's state (spec/10_state.md R20 to R31), its reasons to stop, and the state after reset
(R30, R160). -/

namespace Sys2Proof.Machine

/-- `PH` (R26): no command running, or a command running. -/
inductive Phase
  /-- `IDLE` (0): the block accepts a command. -/
  | idle
  /-- `EXEC` (1): a command is running. -/
  | exec
deriving DecidableEq, Repr

/-- `SUB` (R26): the position inside a `Wait(n)` micro-step. Log entry 14. -/
inductive SubStep
  /-- `ARM` (0). -/
  | arm
  /-- `RUN` (1). -/
  | run
  /-- `STOP` (2). -/
  | stop
deriving DecidableEq, Repr

/-- An event of the trace, the block's observable behaviour (R8). -/
inductive Event
  /-- `Out(v)`: `POUT[5:0]` was written with `v`. -/
  | out (v : Pins)
  /-- `Arm`: the timer was started. -/
  | arm
  /-- `Tick`: one full millisecond period of the running timer was observed. -/
  | tick
  /-- `Disarm`: the timer was stopped. -/
  | disarm
deriving DecidableEq, Repr

/-- `POUT`, the GPIO output register, with its width `PORT_W` (R4, R22): bits 5:0 belong to the block, the bits above
are foreign. Log entry 3. -/
structure Port where
  /-- `PORT_W`. -/
  width : Nat
  /-- The register's bits. -/
  bits : BitVec width
deriving DecidableEq, Repr

/-- What the outside holds on the block's inputs at one clock edge (R31), and what the environment writes to the foreign
bits of `POUT` at that edge (R59): `some f` sets `POUT[PORT_W-1:6]` to the low bits of `f`. Log entries 5 and 8. -/
structure Inputs where
  /-- `rst` (R160). -/
  rst : Bool
  /-- `cmd_valid` (R27). -/
  cmdValid : Bool
  /-- `cmd_op`. -/
  cmdOp : Opcode
  /-- `cmd_arg`. -/
  cmdArg : Arg
  /-- `io_enable` (R23). -/
  ioEnable : Bool
  /-- The environment's write of the foreign bits, if it makes one. -/
  foreign : Option Nat
deriving DecidableEq, Repr

/-- Why a step stops with a fault. The hardware has no fault (R140): no run from reset reaches this one. -/
inductive Fault
  /-- Raised by a meaning when `STEP` names no micro-step of the running command. R26 gives `STEP` no such value, and
  the invariant `Inv` rules it out. Safe: the model stops where the spec describes nothing. Log entry 10. -/
  | noSuchMicroStep
deriving DecidableEq, Repr

/-- Why a step has no meaning. -/
inductive Refusal
  /-- Raised by an arm of `exec` whose instruction has no meaning yet; no arm does. Safe. -/
  | notModelled (mnemonic : String)
  /-- Raised by `step` when the host offers, or `OPL` holds, a reserved opcode: `refuse` (R73, U1). Safe. Log entry 9. -/
  | reservedOpcode (op : Opcode)
deriving DecidableEq, Repr

/-- The state. The registers stand under the spec's own names. -/
structure State where
  /-- `RS`, the register-select field (R20). -/
  rs : BitVec 1
  /-- `EN`, the enable field (R20). -/
  en : BitVec 1
  /-- `NIB`, the data-nibble field (R20). -/
  nib : Nibble
  /-- `POUT` (R22). -/
  pout : Port
  /-- `TRUN`: the timer is armed (R24). -/
  trun : Bool
  /-- `TPER`, the compare-match period in clock cycles (R24). -/
  tper : Count
  /-- `TCNT`, the up-counter (R24). -/
  tcnt : Count
  /-- `TIFG`, the terminal-count flag (R24). -/
  tifg : Bool
  /-- `MSCNT`, milliseconds still to be waited (R25). -/
  mscnt : Count
  /-- `PH` (R26). -/
  ph : Phase
  /-- `OPL`, the opcode of the running command (R26). -/
  opl : Opcode
  /-- `ARGL`, the argument of the running command (R26). -/
  argl : Arg
  /-- `STEP`, the index of the next micro-step (R26). -/
  step : BitVec 4
  /-- `SUB` (R26). -/
  sub : SubStep
  /-- The trace, oldest event first (R8, R30). -/
  trace : List Event
  /-- `TICKS_PER_MS`, a parameter: no step writes it (R4). Log entry 2. -/
  ticksPerMs : Count
  /-- The level of `io_enable` now, held by the environment (R23). Log entry 6. -/
  ioEnable : Bool
  /-- What the outside does at the coming clock edges, the next one first (R32). Log entry 5. -/
  inputs : List Inputs
  /-- Clock edges so far: the model's own field, which indexes the free value of undriven pins (U5). Log entry 7. -/
  edges : Nat
deriving DecidableEq, Repr

/-- The machine right after reset (R30, R160). Every register the spec gives a reset value has it. `POUT` is not written
by reset and holds the open power-on value (log entries 3, 4); `ticksPerMs`, `ioEnable`, `inputs` and `edges` are no
registers of the block (log entries 2, 5, 6, 7). -/
def State.reset : State where
  rs := 0
  en := 0
  nib := 0
  pout := ⟨8, Config.poutPowerOn⟩
  trun := false
  tper := 0
  tcnt := 0
  tifg := false
  mscnt := 0
  ph := .idle
  opl := 0
  argl := 0
  step := 0
  sub := .arm
  trace := []
  ticksPerMs := Config.ticksPerMs
  ioEnable := false
  inputs := []
  edges := 0

end Sys2Proof.Machine
end

