-- ==== Sys2Proof/Machine/Flags.lean ====
section
/-! DEFINITION. The one flag of the hardware, the timer's `TIFG`, and the timer that sets it (spec/60_exceptions.md R143,
R144, R147). There are no condition codes (spec/10_state.md R28). -/

namespace Sys2Proof.Machine

/-- The timer's period has expired in this cycle: `TCNT == TPER - 1` while `TRUN = 1` (R147). -/
def State.expiring (s : State) : Bool := s.trun && s.tcnt == s.tper - 1

/-- `ARM` was performed between the two states: it alone moves `SUB` from `ARM` to `RUN` (R91). Log entry 11. -/
def armedBetween (pre post : State) : Bool := pre.sub == .arm && post.sub == .run

/-- The timer at one clock edge (R147): `pre` is the state before the edge, whose `TRUN`, `TCNT` and `TPER` decide, and
`post` is what everything else made of it at the same edge. The timer's writes of `TCNT` and `TIFG` stand over the
poller's clear (R144: "the set would win") and give way to `ARM`'s writes (R147); `STOP` writes neither register. -/
def timerEdge (pre post : State) : State :=
  if armedBetween pre post then post
  else if pre.trun then
    if pre.tcnt = pre.tper - 1 then { post with tcnt := 0, tifg := true }
    else { post with tcnt := pre.tcnt + 1 }
  else post

/-- The micro-step level's *expire* (R94, R147): enabled when `TRUN = 1` and `TIFG = 0`, effect `TIFG <- 1`. -/
def expire (s : State) : Option State :=
  if s.trun && !s.tifg then some { s with tifg := true } else none

end Sys2Proof.Machine
end

