-- ==== Sys2Proof/WellFormed.lean ====
section
/-! DEFINITION. Well-formedness. Every value of every operand of a command is legal (spec/30_encoding.md R75), so a
command is always well formed; what can be ill formed is a command word (R73, R74), a cursor position (R128), and the
values of the named parameters (spec/00_scope.md R4). -/

namespace Sys2Proof

/-- R75: "Every value of every operand is legal". The operand's type has exactly those values. -/
def Instr.wf : Instr → Bool
  | .setrs _ | .seten _ | .setnib _ | .flush | .delay _ | .sendi _ | .sendd _ => true

/-- A command word whose opcode is not reserved: R73 reserves `0x0` and `0x8` to `0xF`. -/
def CmdWord.wf (w : CmdWord) : Bool :=
  1 ≤ (w.extractLsb' 16 4).toNat && (w.extractLsb' 16 4).toNat ≤ 7

/-- The operand bits of a command word with a given opcode, as a mask (R71): the other bits of `arg` are the `x` bits
of R72. -/
def operandMask (op : Opcode) : CmdWord :=
  match op.toNat with
  | 1 => 0x00001
  | 2 => 0x00001
  | 3 => 0x0000F
  | 5 => 0x0FFFF
  | 6 => 0x000FF
  | 7 => 0x000FF
  | _ => 0x00000

/-- The canonical encoding "has all `x` bits 0" (R74). -/
def CmdWord.canonical (w : CmdWord) : Bool :=
  w.wf && (w &&& (0xF0000 ||| operandMask (w.extractLsb' 16 4))) == w

/-- A pseudo-command the spec gives a meaning: a cursor position is 0 to 31 (R128, U2). -/
def Pseudo.wf : Pseudo → Bool
  | .setCursor p => p < 32
  | .pulse _ | .sendNib _ _ | .init | .sendString _ | .clear => true

/-- The bounds R4 and R124 put on the handshake waits. -/
def HostParams.wf (hp : HostParams) : Bool :=
  5 ≤ hp.initW1.toNat && 1 ≤ hp.initW2.toNat && 1 ≤ hp.initW3.toNat &&
    hp.initW2.toNat ≤ hp.initW1.toNat && hp.initW3.toNat ≤ hp.initW2.toNat

/-- The range of `TICKS_PER_MS` (R4, R173): `2 <= T <= 65535`; the upper bound is the width. -/
def ticksPerMsWf (t : Count) : Bool := 2 ≤ t.toNat

/-- The range of `PORT_W` (R4): at least the six bits the block owns. -/
def portWidthWf (w : Nat) : Bool := 6 ≤ w

end Sys2Proof
end

