-- ==== Sys2Proof/Decode.lean ====
section
/-! DEFINITION. The decoder, total on command words and rejecting reserved opcodes by name, the encoder, and the opcode
map as the spec prints it (spec/30_encoding.md R70 to R75). -/

namespace Sys2Proof

/-- Why a command word has no meaning. -/
inductive DecodeReject
  /-- `op` is `0x0` or `0x8` to `0xF` (R73). -/
  | reservedOpcode (op : Opcode)
deriving DecidableEq, Repr

/-- `CW = {op, arg}` (R70). -/
def commandWord (op : Opcode) (arg : Arg) : CmdWord := op ++ arg

/-- `CW[19:16]` (R70). -/
def CmdWord.op (w : CmdWord) : Opcode := w.extractLsb' 16 4

/-- `CW[15:0]` (R70). -/
def CmdWord.arg (w : CmdWord) : Arg := w.extractLsb' 0 16

/-- `arg[0]`, the operand `v` (R71). -/
def operandV (arg : Arg) : BitVec 1 := arg.extractLsb' 0 1

/-- `arg[3:0]`, the operand `n` (R71). -/
def operandN (arg : Arg) : Nibble := arg.extractLsb' 0 4

/-- `arg[15:0]`, the operand `count` (R71). -/
def operandCount (arg : Arg) : Count := arg

/-- `arg[7:0]`, the operand `b` (R71). -/
def operandB (arg : Arg) : Byte := arg.extractLsb' 0 8

/-- The decoder of R72: the opcode chooses the command, the low bits of `arg` are its operand (R71), the other bits of
`arg` are not looked at (R74), and a reserved opcode has no meaning (R73). -/
def decode (w : CmdWord) : Except DecodeReject Instr :=
  match w.op.toNat with
  | 1 => .ok (.setrs (operandV w.arg))
  | 2 => .ok (.seten (operandV w.arg))
  | 3 => .ok (.setnib (operandN w.arg))
  | 4 => .ok .flush
  | 5 => .ok (.delay (operandCount w.arg))
  | 6 => .ok (.sendi (operandB w.arg))
  | 7 => .ok (.sendd (operandB w.arg))
  | _ => .error (.reservedOpcode w.op)

/-- The argument field of the canonical encoding, `x` bits 0 (R71, R74). -/
def Instr.argument : Instr → Arg
  | .setrs v => v.setWidth 16
  | .seten v => v.setWidth 16
  | .setnib n => n.setWidth 16
  | .flush => 0
  | .delay count => count
  | .sendi b => b.setWidth 16
  | .sendd b => b.setWidth 16

/-- The canonical encoding (R70 to R72, R74). -/
def encode (i : Instr) : CmdWord := commandWord i.opcode i.argument

/-- A row of the opcode map: mnemonic, match and mask. -/
structure OpcodeRow where
  mnemonic : String
  matchBits : CmdWord
  mask : CmdWord
deriving DecidableEq, Repr

/-- The `match` and `mask` columns of R72, row by row. -/
def opcodeTable : List OpcodeRow :=
  [ ⟨"SETRS", 0x10000, 0xF0000⟩,
    ⟨"SETEN", 0x20000, 0xF0000⟩,
    ⟨"SETNIB", 0x30000, 0xF0000⟩,
    ⟨"FLUSH", 0x40000, 0xF0000⟩,
    ⟨"DELAY", 0x50000, 0xF0000⟩,
    ⟨"SENDI", 0x60000, 0xF0000⟩,
    ⟨"SENDD", 0x70000, 0xF0000⟩ ]

/-- The mnemonic of a command (R72, R76). -/
def Instr.mnemonic : Instr → String
  | .setrs _ => "SETRS"
  | .seten _ => "SETEN"
  | .setnib _ => "SETNIB"
  | .flush => "FLUSH"
  | .delay _ => "DELAY"
  | .sendi _ => "SENDI"
  | .sendd _ => "SENDD"

/-- What the decoder reads from an instruction given as the opcode table numbers its bits. There is one word per
command, of 20 bits, and no byte order; a number with a bit above bit 19 is no command word. Log entry 22. -/
def decodeTableWord (nbits w : Nat) : Option Instr :=
  if w % 2 ^ nbits < 2 ^ 20 then
    match decode (BitVec.ofNat 20 (w % 2 ^ nbits)) with
    | .ok i => some i
    | .error _ => none
  else none

end Sys2Proof
end

