-- ==== Sys2Proof/Machine/Operands.lean ====
section
/-! DEFINITION. The latched command word and the parts of the values a command works on: the two nibbles of a byte and the
six-bit value of the pins (spec/20_memory.md R51, R52, spec/42_transmitter.md R119). -/

namespace Sys2Proof.Machine

/-- The latched command word `{OPL, ARGL}` (R26, R27, R70). -/
def State.latched (s : State) : CmdWord := commandWord s.opl s.argl

/-- `H = (b >> 4) & 0xF = b[7:4]` (R52, R110, R119). -/
def highNibble (b : Byte) : Nibble := ((b >>> 4) &&& 0xF).setWidth 4

/-- `L = b & 0xF = b[3:0]` (R52, R110, R119). -/
def lowNibble (b : Byte) : Nibble := (b &&& 0xF).setWidth 4

/-- `v6 = {NIB[3:0], EN, RS}` (R51, R78, R104). -/
def pinValue (nib : Nibble) (en rs : BitVec 1) : Pins := nib ++ en ++ rs

/-- The six-bit value the control state stands for: what the pins will show after the next `Flush()` (R20, R104). -/
def State.v6 (s : State) : Pins := pinValue s.nib s.en s.rs

end Sys2Proof.Machine
end

