-- ==== Sys2Proof/Machine/Micro.lean ====
section
/-! DEFINITION. Micro-steps as data: each command "is a fixed list of micro-steps" (spec/00_scope.md R10). The lists are the
pseudocode of spec/40_delay.md R90, spec/41_mirror_flush.md R100 to R103 and spec/42_transmitter.md R110. -/

namespace Sys2Proof.Machine

/-- One statement of a micro-step's body (R6, R100 to R104). -/
inductive Prim
  /-- `RS <- v`. -/
  | writeRs (v : BitVec 1)
  /-- `EN <- v`. -/
  | writeEn (v : BitVec 1)
  /-- `NIB <- n`. -/
  | writeNib (n : Nibble)
  /-- `Flush()`. -/
  | flush
deriving DecidableEq, Repr

/-- One micro-step: a body whose statements run in order in one atomic transition (R6), or `Wait(n)` (R91). -/
inductive Micro
  | body (ps : List Prim)
  | wait (n : Count)
deriving DecidableEq, Repr

/-- The one micro-step of `SETRS v` (R100). -/
def setrsSteps (v : BitVec 1) : List Micro := [.body [.writeRs v]]

/-- The one micro-step of `SETEN v` (R101). -/
def setenSteps (v : BitVec 1) : List Micro := [.body [.writeEn v]]

/-- The one micro-step of `SETNIB n` (R102). -/
def setnibSteps (n : Nibble) : List Micro := [.body [.writeNib n]]

/-- The one micro-step of `FLUSH` (R103). -/
def flushSteps : List Micro := [.body [.flush]]

/-- The one micro-step of `DELAY count` (R90). -/
def delaySteps (count : Count) : List Micro := [.wait count]

/-- `Send(rs, b)`, the nine micro-steps of R110. -/
def sendSteps (rs : BitVec 1) (b : Byte) : List Micro :=
  [ .body [.writeRs rs, .writeEn 0, .writeNib (highNibble b), .flush],
    .wait 1,
    .body [.writeEn 1, .flush],
    .wait 1,
    .body [.writeEn 0, .writeNib (lowNibble b), .flush],
    .wait 1,
    .body [.writeEn 1, .flush],
    .wait 1,
    .body [.writeEn 0, .flush] ]

/-- The micro-step list of every command. -/
def microSteps : Instr → List Micro
  | .setrs v => setrsSteps v
  | .seten v => setenSteps v
  | .setnib n => setnibSteps n
  | .flush => flushSteps
  | .delay count => delaySteps count
  | .sendi b => sendSteps 0 b
  | .sendd b => sendSteps 1 b

end Sys2Proof.Machine
end

