-- ==== Sys2Proof/Machine/Ops.lean ====
section
/-! DEFINITION. The named operations: the port, the trace, the micro-steps, command acceptance, the environment at a clock
edge, and reset. The block takes no exception (spec/60_exceptions.md R140, R145), so there is no exception entry or
return; reset is the only thing that ends a command early (spec/70_reset_and_hazards.md R161). -/

namespace Sys2Proof.Machine

/-- `0x3F` at the port's width: the six bits the block owns (R22, R104). -/
def Port.ownMask (p : Port) : BitVec p.width := (BitVec.allOnes 6).setWidth p.width

/-- `POUT[5:0]` (R22). -/
def Port.own (p : Port) : Pins := p.bits.setWidth 6

/-- Bit `i` of `POUT`, false above the register. -/
def Port.bit (p : Port) (i : Nat) : Bool := p.bits.getLsbD i

/-- The masked write `POUT' = (POUT & ~0x3F) | v6` (R54, R104). -/
def Port.writeOwn (p : Port) (v : Pins) : Port :=
  { p with bits := (p.bits &&& ~~~p.ownMask) ||| v.setWidth p.width }

/-- The environment's write of `POUT[PORT_W-1:6]`; it never writes `POUT[5:0]` (R59). -/
def Port.writeForeign (p : Port) (f : Nat) : Port :=
  { p with bits := (p.bits &&& p.ownMask) ||| (BitVec.ofNat p.width f <<< 6) }

/-- `Emit(e)`: append an event to the trace (R6, R8). -/
def emit (e : Event) (s : State) : State := { s with trace := s.trace ++ [e] }

/-- `Flush()` (R104): the masked write of the three fields into `POUT[5:0]`, and the event `Out`. -/
def flushPort (s : State) : State := emit (.out s.v6) { s with pout := s.pout.writeOwn s.v6 }

/-- One statement of a micro-step's body (R6). -/
def runPrim (s : State) : Prim → State
  | .writeRs v => { s with rs := v }
  | .writeEn v => { s with en := v }
  | .writeNib n => { s with nib := n }
  | .flush => flushPort s

/-- The body of a micro-step: statements in order, later ones see earlier ones (R6). -/
def runBody (ps : List Prim) (s : State) : State := ps.foldl runPrim s

/-- Sub-step `ARM` of `Wait(n)` (R91). -/
def waitArm (n : Count) (s : State) : State :=
  emit .arm { s with
    mscnt := n, tper := s.ticksPerMs, tcnt := 0, tifg := false, trun := true, sub := .run }

/-- One poll of sub-step `RUN` (R91). -/
def waitRun (s : State) : State :=
  if s.mscnt = 0 then { s with sub := .stop }
  else if s.tifg then emit .tick { s with tifg := false, mscnt := s.mscnt - 1 }
  else s

/-- Sub-step `STOP`, up to the advance of `STEP` (R91). -/
def waitStop (s : State) : State := emit .disarm { s with trun := false, sub := .arm }

/-- The end of a micro-step of a command with `n` of them: `STEP <- STEP + 1`, and `PH <- IDLE` after the last (R26). -/
def completeStep (n : Nat) (s : State) : State :=
  { s with step := s.step + 1, ph := if s.step.toNat + 1 = n then .idle else s.ph }

/-- What the sequencer does at one clock edge while a command with the micro-steps `ms` runs: the micro-step `STEP`
names, or the sub-step `SUB` names of a wait (R26, R91, R178). -/
def runMicro (ms : List Micro) (s : State) : Host.Outcome State Fault Refusal :=
  match ms[s.step.toNat]? with
  | none => .fault .noSuchMicroStep
  | some (.body ps) => .next (completeStep ms.length (runBody ps s))
  | some (.wait n) =>
    match s.sub with
    | .arm => .next (waitArm n s)
    | .run => .next (waitRun s)
    | .stop => .next (completeStep ms.length (waitStop s))

/-- Acceptance of a command (R27). -/
def accept (op : Opcode) (arg : Arg) (s : State) : State :=
  { s with opl := op, argl := arg, step := 0, sub := .arm, ph := .exec }

/-- The inputs when the outside has nothing planned: no reset, no command, `io_enable` as it is, foreign bits left
alone. Log entry 5. -/
def Inputs.quiet (ioEnable : Bool) : Inputs :=
  { rst := false, cmdValid := false, cmdOp := 0, cmdArg := 0, ioEnable := ioEnable, foreign := none }

/-- The inputs at the coming clock edge. -/
def State.nextInputs (s : State) : Inputs := s.inputs.headD (Inputs.quiet s.ioEnable)

/-- The environment's write of the foreign bits at a clock edge (R59). -/
def Port.environment (p : Port) (inp : Inputs) : Port :=
  match inp.foreign with
  | none => p
  | some f => p.writeForeign f

/-- What the environment does at a clock edge: its writes, its levels, and the edge itself (R23, R59). -/
def environment (inp : Inputs) (s : State) : State :=
  { s with
    pout := s.pout.environment inp, ioEnable := inp.ioEnable, inputs := s.inputs.tail,
    edges := s.edges + 1 }

/-- Reset (R160): every register at its value of R30, the trace empty, `POUT` not written. -/
def resetEdge (s : State) : State :=
  { s with
    rs := 0, en := 0, nib := 0, trun := false, tper := 0, tcnt := 0, tifg := false, mscnt := 0,
    ph := .idle, opl := 0, argl := 0, step := 0, sub := .arm, trace := [] }

/-- The idle block at a clock edge with `rst = 0`: it accepts the offered command (R27), refuses a reserved opcode
(R73), and does nothing when no command is offered (R151). -/
def idleEdge (inp : Inputs) (s : State) : Host.Outcome State Fault Refusal :=
  if inp.cmdValid then
    match decode (commandWord inp.cmdOp inp.cmdArg) with
    | .ok _ => .next (accept inp.cmdOp inp.cmdArg s)
    | .error (.reservedOpcode op) => .refused (.reservedOpcode op)
  else .next s

/-- Apply `f` to the next state, if there is one. -/
def onNext (o : Host.Outcome State Fault Refusal) (f : State → State) : Host.Outcome State Fault Refusal :=
  match o with
  | .next s => .next (f s)
  | .fault r => .fault r
  | .refused r => .refused r

/-- The next state, if there is one. -/
def nextOf (o : Host.Outcome State Fault Refusal) : Option State :=
  match o with
  | .next s => some s
  | .fault _ | .refused _ => none

/-- `cmd_ready = 1` exactly when `PH = IDLE` and `rst = 0` (R27, R31). -/
def State.cmdReady (s : State) : Bool := s.ph == .idle && !s.nextInputs.rst

/-- `pin[5:0]` (R23, R31): `POUT[5:0]` while `io_enable = 1`, any value while it is 0 (U5, log entry 7). -/
def State.pins (s : State) : Pins :=
  if s.ioEnable then s.pout.own else Config.undrivenPins s.edges

/-- The inputs with reset released at the coming edge, for `withFetchWord`. -/
def releaseReset : List Inputs → List Inputs
  | [] => []
  | inp :: rest => { inp with rst := false } :: rest

/-- A table word latched as the running command: the state in which an acceptance (R27) leaves the block. Log
entry 12. -/
def latchWord (nbits w : Nat) (s : State) : State :=
  let cw : CmdWord := BitVec.ofNat 20 (w % 2 ^ nbits)
  { accept cw.op cw.arg s with inputs := releaseReset s.inputs }

end Sys2Proof.Machine
end

