-- ==== Sys2Proof/Machine/Delay.lean ====
section
/-! DEFINITION. The delay family (spec/40_delay.md). A meaning is what the sequencer does at one clock edge while the command
runs; the whole command is a run of such edges. -/

namespace Sys2Proof.Machine

/-- `DELAY count` (R90): one micro-step, `Wait(count)`. -/
def execDelay (count : Count) (s : State) : Host.Outcome State Fault Refusal :=
  runMicro (delaySteps count) s

end Sys2Proof.Machine
end

