-- ==== Sys2Proof/Machine/PinState.lean ====
section
/-! DEFINITION. The pin-state register and flush family (spec/41_mirror_flush.md). A meaning is what the sequencer does at one
clock edge while the command runs; these commands have one micro-step. -/

namespace Sys2Proof.Machine

/-- `SETRS v` (R100): `RS <- v`. -/
def execSetrs (v : BitVec 1) (s : State) : Host.Outcome State Fault Refusal :=
  runMicro (setrsSteps v) s

/-- `SETEN v` (R101): `EN <- v`. -/
def execSeten (v : BitVec 1) (s : State) : Host.Outcome State Fault Refusal :=
  runMicro (setenSteps v) s

/-- `SETNIB n` (R102): `NIB <- n`. -/
def execSetnib (n : Nibble) (s : State) : Host.Outcome State Fault Refusal :=
  runMicro (setnibSteps n) s

/-- `FLUSH` (R103): `Flush()`. -/
def execFlush (s : State) : Host.Outcome State Fault Refusal :=
  runMicro flushSteps s

end Sys2Proof.Machine
end

