-- ==== Sys2Proof/Machine/Transmitter.lean ====
section
/-! DEFINITION. The transmitter family (spec/42_transmitter.md). A meaning is what the sequencer does at one clock edge while
the command runs; a transfer is nine micro-steps, four of them waits. -/

namespace Sys2Proof.Machine

/-- `SENDI b` (R111): `Send(0, b)`. -/
def execSendi (b : Byte) (s : State) : Host.Outcome State Fault Refusal :=
  runMicro (sendSteps 0 b) s

/-- `SENDD b` (R112): `Send(1, b)`. -/
def execSendd (b : Byte) (s : State) : Host.Outcome State Fault Refusal :=
  runMicro (sendSteps 1 b) s

end Sys2Proof.Machine
end

