-- ==== Sys2Proof/Machine/Dispatch.lean ====
section
/-! DEFINITION. One arm per command (spec/30_encoding.md R72): what the sequencer does at one clock edge while it runs. -/

namespace Sys2Proof.Machine

def exec (i : Instr) (s : State) : Host.Outcome State Fault Refusal :=
  match i with
  | .setrs v => Sys2Proof.Machine.execSetrs v s
  | .seten v => Sys2Proof.Machine.execSeten v s
  | .setnib n => Sys2Proof.Machine.execSetnib n s
  | .flush => Sys2Proof.Machine.execFlush s
  | .delay count => Sys2Proof.Machine.execDelay count s
  | .sendi b => Sys2Proof.Machine.execSendi b s
  | .sendd b => Sys2Proof.Machine.execSendd b s

end Sys2Proof.Machine
end

