-- ==== Sys2Proof/Machine/Step.lean ====
section
/-! DEFINITION. One step of the machine: one rising clock edge (spec/10_state.md R31, spec/70_reset_and_hazards.md R178).
Log entry 1. -/

namespace Sys2Proof.Machine

/-- One clock edge. The environment acts (R59); reset wins over everything (R144, R160); an idle block looks at the
command channel (R27); a running one performs a micro-step of the latched command; and the timer acts in every cycle in
which `TRUN = 1` (R147). -/
def step (s : State) : Host.Outcome State Fault Refusal :=
  let inp := s.nextInputs
  let s₁ := environment inp s
  if inp.rst then .next (resetEdge s₁)
  else
    match s.ph with
    | .idle => onNext (idleEdge inp s₁) (timerEdge s₁)
    | .exec =>
      match decode s.latched with
      | .ok i => onNext (exec i s₁) (timerEdge s₁)
      | .error (.reservedOpcode op) => .refused (.reservedOpcode op)

/-- `s` with a table word as the command that the very next step runs (log entry 12). -/
def State.withFetchWord (s : State) (nbits w : Nat) : State := latchWord nbits w s

end Sys2Proof.Machine
end

