-- ==== Sys2Proof/Machine/Assembler.lean ====
section
/-! DEFINITION. The assembler syntax (spec/30_encoding.md R76): one command a line, the mnemonic in capitals, at most one
operand, decimal or `0x` hexadecimal or, for `SENDD`, a quoted character; `;` starts a comment. Log entry 16. -/

namespace Sys2Proof.Machine

/-- Why a line is no command. -/
inductive AsmReject
  /-- The name is none of the seven mnemonics. -/
  | unknownMnemonic
  /-- The operand is no number below `2^16` and no quoted character, or it is missing or not wanted. -/
  | badOperand
  /-- Something stands after the operand that is no comment. -/
  | trailing
deriving DecidableEq, Repr

/-- An operand as written. -/
inductive AsmOperand
  | absent
  | number (n : Nat)
  | character (c : Nat)
deriving DecidableEq, Repr

/-- Blank characters between the parts of a line. -/
def isBlank (c : Char) : Bool := c == ' ' || c == '\t'

/-- A digit's value in a base up to 16. -/
def digitValue (base : Nat) (c : Char) : Option Nat :=
  let v :=
    if '0'.toNat ≤ c.toNat && c.toNat ≤ '9'.toNat then some (c.toNat - '0'.toNat)
    else if 'A'.toNat ≤ c.toNat && c.toNat ≤ 'F'.toNat then some (c.toNat - 'A'.toNat + 10)
    else if 'a'.toNat ≤ c.toNat && c.toNat ≤ 'f'.toNat then some (c.toNat - 'a'.toNat + 10)
    else none
  v.filter (· < base)

/-- The value of a run of digits. -/
def digitsValue (base : Nat) : List Char → Option Nat
  | [] => none
  | cs => cs.foldl (fun acc c => acc.bind fun a => (digitValue base c).map (a * base + ·)) (some 0)

/-- A number, decimal or `0x` hexadecimal. -/
def numberValue : List Char → Option Nat
  | '0' :: 'x' :: cs => digitsValue 16 cs
  | cs => digitsValue 10 cs

/-- The operand at the head of a line's rest, and what is left after it. -/
def readOperand (cs : List Char) : Except AsmReject (AsmOperand × List Char) :=
  match cs with
  | [] => .ok (.absent, [])
  | ';' :: rest => .ok (.absent, ';' :: rest)
  | '\'' :: c :: '\'' :: rest =>
    if c.toNat < 256 then .ok (.character c.toNat, rest) else .error .badOperand
  | cs =>
    let word := cs.takeWhile fun c => !isBlank c && c != ';'
    match numberValue word with
    | some n => if n < 2 ^ 16 then .ok (.number n, cs.drop word.length) else .error .badOperand
    | none => .error .badOperand

/-- The command a mnemonic and an operand stand for; the operand is taken from the low bits (R71). -/
def makeInstr (name : List Char) (op : AsmOperand) : Except AsmReject Instr :=
  if name = ['F', 'L', 'U', 'S', 'H'] then
    match op with
    | .absent => .ok .flush
    | .number _ | .character _ => .error .badOperand
  else if name = ['S', 'E', 'N', 'D', 'D'] then
    match op with
    | .number n | .character n => .ok (.sendd (BitVec.ofNat 8 n))
    | .absent => .error .badOperand
  else
    match op with
    | .absent | .character _ =>
      if name = ['S', 'E', 'T', 'R', 'S'] ∨ name = ['S', 'E', 'T', 'E', 'N'] ∨ name = ['S', 'E', 'T', 'N', 'I', 'B'] ∨
        name = ['D', 'E', 'L', 'A', 'Y'] ∨ name = ['S', 'E', 'N', 'D', 'I'] then .error .badOperand
      else .error .unknownMnemonic
    | .number n =>
      if name = ['S', 'E', 'T', 'R', 'S'] then .ok (.setrs (BitVec.ofNat 1 n))
      else if name = ['S', 'E', 'T', 'E', 'N'] then .ok (.seten (BitVec.ofNat 1 n))
      else if name = ['S', 'E', 'T', 'N', 'I', 'B'] then .ok (.setnib (BitVec.ofNat 4 n))
      else if name = ['D', 'E', 'L', 'A', 'Y'] then .ok (.delay (BitVec.ofNat 16 n))
      else if name = ['S', 'E', 'N', 'D', 'I'] then .ok (.sendi (BitVec.ofNat 8 n))
      else .error .unknownMnemonic

/-- One line: a command, or nothing when it holds only blanks and a comment. -/
def assembleLine (line : List Char) : Except AsmReject (Option Instr) :=
  match line.dropWhile isBlank with
  | [] => .ok none
  | ';' :: _ => .ok none
  | cs =>
    let name := cs.takeWhile fun c => !isBlank c && c != ';'
    match readOperand ((cs.drop name.length).dropWhile isBlank) with
    | .error e => .error e
    | .ok (op, rest) =>
      match rest.dropWhile isBlank with
      | [] | ';' :: _ => (makeInstr name op).map some
      | _ => .error .trailing

/-- A program text, line by line, as canonical command words (R74, R76). -/
def assemble : List (List Char) → Except AsmReject (List CmdWord)
  | [] => .ok []
  | line :: lines =>
    match assembleLine line, assemble lines with
    | .ok none, rest => rest
    | .ok (some i), .ok ws => .ok (encode i :: ws)
    | .ok (some _), .error e => .error e
    | .error e, _ => .error e

end Sys2Proof.Machine
end

