-- ==== Sys2Proof/Machine/Timing.lean ====
section
/-! DEFINITION. Lengths in clock cycles (spec/70_reset_and_hazards.md R178 to R180) and the host's offers timed by them. -/

namespace Sys2Proof.Machine

/-- Cycles of `Wait(n)` when `TICKS_PER_MS` is `t` (R179). -/
def waitCycles (t n : Nat) : Nat := if n = 0 then 3 else n * t + 4

/-- Cycles of one micro-step (R178). -/
def microCycles (t : Nat) : Micro → Nat
  | .body _ => 1
  | .wait n => waitCycles t n.toNat

/-- Cycles of a list of micro-steps. -/
def stepsCycles (t : Nat) (ms : List Micro) : Nat := (ms.map (microCycles t)).sum

/-- Cycles of a command from its acceptance cycle to its last micro-step's cycle, both included (R178, R180). -/
def commandCycles (t : Nat) (i : Instr) : Nat := 1 + stepsCycles t (microSteps i)

/-- The inputs of a host that offers one command word, with `io_enable = 1` and the foreign bits left alone. -/
def Inputs.offer (w : CmdWord) : Inputs :=
  { rst := false, cmdValid := true, cmdOp := w.op, cmdArg := w.arg, ioEnable := true, foreign := none }

/-- The inputs of a host that "offers each command as soon as `cmd_ready = 1`" (R120): every command is offered in one
cycle, and nothing during the cycles it runs. -/
def schedule (t : Nat) (is : List Instr) : List Inputs :=
  is.flatMap fun i => Inputs.offer (encode i) :: List.replicate (commandCycles t i - 1) (Inputs.quiet true)

end Sys2Proof.Machine
end

