-- ==== Sys2Proof/Machine/HostSequences.lean ====
section
/-! DEFINITION. The host's pseudo-commands as lists of commands (spec/43_host_sequences.md). They are software that surrounds
the block and add no state and no behaviour to it (R120). -/

namespace Sys2Proof.Machine

/-- Why a pseudo-command has no meaning. -/
inductive HostRefusal
  /-- `SETCURSOR p` with `p` outside 0 to 31: `refuse`, no byte is computed (R128, U2). -/
  | cursorOutOfRange (p : Nat)
deriving DecidableEq, Repr

/-- `PULSE w` (R121). -/
def pulse (w : Count) : List Instr := [.seten 1, .flush, .delay 1, .seten 0, .flush, .delay w]

/-- `SENDNIB n, w` (R122). -/
def sendNib (n : Nibble) (w : Count) : List Instr := [.setnib n, .seten 0, .flush, .delay 1] ++ pulse w

/-- `INIT` phase 0 (R123). -/
def initPhase0 : List Instr := [.setrs 0, .seten 0, .setnib 3, .flush, .delay 20]

/-- `INIT` phases 1 to 3 (R124). -/
def initPhases123 (hp : HostParams) : List Instr := pulse hp.initW1 ++ pulse hp.initW2 ++ pulse hp.initW3

/-- `INIT` phase 4 (R125). -/
def initPhase4 : List Instr := sendNib 0x2 1 ++ sendNib 0xC 1

/-- `INIT` phases 5 and later (R126). -/
def initPhase5 (hp : HostParams) : List Instr :=
  [.sendi hp.iHome, .sendi hp.iEntry, .sendi hp.iDispOn, .sendi hp.iClear, .sendi 0x80]

/-- `INIT`: "the concatenation of rules R123 to R126". -/
def initSequence (hp : HostParams) : List Instr :=
  initPhase0 ++ initPhases123 hp ++ initPhase4 ++ initPhase5 hp

/-- The byte `SETCURSOR p` sends for a legal `p` (R128, R119). -/
def cursorByte (p : Nat) : Byte :=
  if p < Config.cursorPivot then Config.iSetDdram ||| BitVec.ofNat 8 p
  else Config.iSetDdram ||| BitVec.ofNat 8 (48 + p)

/-- `SETCURSOR p` (R128); outside 0 to 31 it is refused. -/
def setCursor (p : Nat) : Except HostRefusal (List Instr) :=
  if p < 32 then .ok [.sendi (cursorByte p)] else .error (.cursorOutOfRange p)

/-- `SENDSTRING s` from position `p` on, with `fuel` positions left. -/
def sendFrom (p : Nat) : Nat → List Byte → List Instr
  | 0, _ => []
  | _ + 1, [] => []
  | fuel + 1, c :: cs => .sendi (cursorByte p) :: .sendd c :: sendFrom (p + 1) fuel cs

/-- `SENDSTRING s` (R129): from position 0, at most 32 characters, the rest dropped silently. -/
def sendString (s : List Byte) : List Instr := sendFrom 0 32 s

/-- `CLEAR` (R130). -/
def clearDisplay (hp : HostParams) : List Instr := [.sendi hp.iClear]

/-- The demonstration phase, not part of `INIT` (R127, C12); after it the host issues nothing more. -/
def demonstration (hp : HostParams) : List Instr := sendString hp.demoString ++ [.sendi (cursorByte 17)]

/-- The expansion of every pseudo-command (R77). -/
def expand (hp : HostParams) : Pseudo → Except HostRefusal (List Instr)
  | .pulse w => .ok (pulse w)
  | .sendNib n w => .ok (sendNib n w)
  | .init => .ok (initSequence hp)
  | .setCursor p => setCursor p
  | .sendString s => .ok (sendString s)
  | .clear => .ok (clearDisplay hp)

/-- The command words a list of commands puts on the command channel (R70, R74). -/
def words (is : List Instr) : List CmdWord := is.map encode

end Sys2Proof.Machine
end

