-- ==== Sys2Proof/Machine/MicroLevel.lean ====
section
/-! DEFINITION. The micro-step level of the spec (spec/00_scope.md R10, spec/40_delay.md R94, spec/60_exceptions.md R147): the same
machine with the timer's counter forgotten and its expiry an event of its own, which may come at any time while the timer
runs. A clock edge of `step` is at most three such events. -/

namespace Sys2Proof.Machine

/-- A transition of the micro-step level. -/
inductive MicroEvent
  /-- The environment acts: levels, foreign bits (R59). -/
  | environment (inp : Inputs)
  /-- Reset (R160). -/
  | reset
  /-- The block accepts a command (R27). -/
  | accept (op : Opcode) (arg : Arg)
  /-- The sequencer performs one micro-step, or one sub-step of a wait (R91). -/
  | sequencer
  /-- The timer's period expires (R94, R147). -/
  | expire
deriving DecidableEq, Repr

/-- A state as the micro-step level sees it: the up-counter `TCNT` and the model's count of edges forgotten (U8). -/
def microView (s : State) : State := { s with tcnt := 0, edges := 0 }

/-- One transition of the micro-step level, when it is enabled. -/
def microApply (s : State) : MicroEvent → Option State
  | .environment inp => some (microView (environment inp s))
  | .reset => some (resetEdge s)
  | .accept op arg =>
    match s.ph, decode (commandWord op arg) with
    | .idle, .ok _ => some (accept op arg s)
    | .idle, .error _ => none
    | .exec, _ => none
  | .sequencer =>
    match s.ph, decode s.latched with
    | .exec, .ok i => nextOf (exec i s)
    | .exec, .error _ => none
    | .idle, _ => none
  | .expire => expire s

/-- A list of transitions. -/
def microRun : List MicroEvent → State → Option State
  | [], s => some s
  | e :: es, s =>
    match microApply s e with
    | none => none
    | some s' => microRun es s'

end Sys2Proof.Machine
end

