-- ==== Sys2Proof/Machine/Trace.lean ====
section
/-! DEFINITION. What is read off a trace: the port values, the timed pin trace, the enable edges (spec/00_scope.md R8,
spec/42_transmitter.md R113 to R115, spec/70_reset_and_hazards.md R164). -/

namespace Sys2Proof.Machine

/-- The values of the `Out` events, in order: the pin values over time (R8, R57). -/
def outs : List Event → List Pins
  | [] => []
  | .out v :: es => v :: outs es
  | .arm :: es => outs es
  | .tick :: es => outs es
  | .disarm :: es => outs es

/-- The `Tick` events up to the next `Out`: the milliseconds the pins stay unchanged. -/
def ticksBeforeOut : List Event → Nat
  | [] => 0
  | .out _ :: _ => 0
  | .arm :: es => ticksBeforeOut es
  | .tick :: es => ticksBeforeOut es + 1
  | .disarm :: es => ticksBeforeOut es

/-- The timed pin trace (R8): every wait folded into the `Out` before it. Waits before the first `Out` have none to be
folded into and do not appear. Log entry 13. -/
def timedPinTrace : List Event → List (Pins × Nat)
  | [] => []
  | .out v :: es => (v, ticksBeforeOut es) :: timedPinTrace es
  | .arm :: es => timedPinTrace es
  | .tick :: es => timedPinTrace es
  | .disarm :: es => timedPinTrace es

/-- `pin[1]`, the enable line (R31, R51). -/
def enLine (v : Pins) : Bool := v.getLsbD 1

/-- Rising edges of `pin[1]` when the pins show `v` and then the listed values (R114). -/
def risingEdges (v : Pins) : List Pins → Nat
  | [] => 0
  | w :: ws => (if !enLine v && enLine w then 1 else 0) + risingEdges w ws

/-- Falling edges of `pin[1]` (R114). -/
def fallingEdges (v : Pins) : List Pins → Nat
  | [] => 0
  | w :: ws => (if enLine v && !enLine w then 1 else 0) + fallingEdges w ws

/-- Two pin values that agree on the lines other than enable: register-select and nibble unchanged (R164). -/
def sameData (v w : Pins) : Bool := (v &&& 0x3D) == (w &&& 0x3D)

/-- Register-select and nibble do not change with a rising edge of enable, nor from one to the next while enable stays
high (R114: they "do not change while `pin[1]` is high"). -/
def stableAtRise (v : Pins) : List Pins → Bool
  | [] => true
  | w :: ws => (!enLine w || sameData v w) && stableAtRise w ws

/-- The source's whole stability invariant: they do not change with any edge of enable (R164). A `Send` breaks it at its
first falling edge (R165, C3). -/
def stableAtEdges (v : Pins) : List Pins → Bool
  | [] => true
  | w :: ws => (enLine v == enLine w || sameData v w) && stableAtEdges w ws

/-- The events of `Wait(n)`: `Arm, Tick^n, Disarm` (R90, R91). -/
def waitEvents (n : Nat) : List Event := .arm :: (List.replicate n .tick ++ [.disarm])

/-- The events of `Send(rs, b)` (R79, R110). -/
def sendEvents (rs : BitVec 1) (b : Byte) : List Event :=
  .out (pinValue (highNibble b) 0 rs) :: (waitEvents 1 ++
  .out (pinValue (highNibble b) 1 rs) :: (waitEvents 1 ++
  .out (pinValue (lowNibble b) 0 rs) :: (waitEvents 1 ++
  .out (pinValue (lowNibble b) 1 rs) :: (waitEvents 1 ++
  [.out (pinValue (lowNibble b) 0 rs)]))))

/-- The events a whole command emits when it starts in a state with the given control state (R90, R100 to R104, R111,
R112). -/
def commandEvents (s : State) : Instr → List Event
  | .setrs _ => []
  | .seten _ => []
  | .setnib _ => []
  | .flush => [.out s.v6]
  | .delay count => waitEvents count.toNat
  | .sendi b => sendEvents 0 b
  | .sendd b => sendEvents 1 b

/-- `RS` after a whole command (R100, R116). -/
def commandRs (s : State) : Instr → BitVec 1
  | .setrs v => v
  | .seten _ => s.rs
  | .setnib _ => s.rs
  | .flush => s.rs
  | .delay _ => s.rs
  | .sendi _ => 0
  | .sendd _ => 1

/-- `EN` after a whole command (R101, R116). -/
def commandEn (s : State) : Instr → BitVec 1
  | .setrs _ => s.en
  | .seten v => v
  | .setnib _ => s.en
  | .flush => s.en
  | .delay _ => s.en
  | .sendi _ => 0
  | .sendd _ => 0

/-- `NIB` after a whole command (R102, R116). -/
def commandNib (s : State) : Instr → Nibble
  | .setrs _ => s.nib
  | .seten _ => s.nib
  | .setnib n => n
  | .flush => s.nib
  | .delay _ => s.nib
  | .sendi b => lowNibble b
  | .sendd b => lowNibble b

/-- `POUT[5:0]` after a whole command: unchanged, or the value of its last `Out` (R100 to R104, R116). -/
def commandOwn (s : State) : Instr → Pins
  | .setrs _ => s.pout.own
  | .seten _ => s.pout.own
  | .setnib _ => s.pout.own
  | .flush => s.v6
  | .delay _ => s.pout.own
  | .sendi b => pinValue (lowNibble b) 0 0
  | .sendd b => pinValue (lowNibble b) 0 1

end Sys2Proof.Machine
end

