-- ==== Sys2Proof/Safety.lean ====
section
/-! DEFINITION. The invariant of the machine, and what a run without reset is: the terms in which claims are stated. -/

namespace Sys2Proof.Machine

/-- What holds in every state a run from reset reaches. Each clause is a promise the spec makes of the whole machine. -/
structure State.Inv (s : State) : Prop where
  /-- `PORT_W >= 6` (R4). -/
  portWide : 6 ≤ s.pout.width
  /-- `2 <= T` (R4, R173). -/
  ticksRange : 2 ≤ s.ticksPerMs.toNat
  /-- While a command runs, the latched word is a command, `STEP` is one of its micro-steps, and `SUB` has left `ARM`
  only inside a wait, whose count bounds `MSCNT` (R25, R26, R27). -/
  running : s.ph = .exec → ∃ i, decode s.latched = .ok i ∧ s.step.toNat < (microSteps i).length ∧
    (s.sub ≠ .arm → ∃ n, (microSteps i)[s.step.toNat]? = some (.wait n) ∧ s.mscnt.toNat ≤ n.toNat)
  /-- No wait is open while the block is idle (R27, R91). -/
  idleSub : s.ph = .idle → s.sub = .arm
  /-- The timer runs exactly inside a wait, after `ARM` and before `STOP` (R91, R148). -/
  timerArmed : s.trun = true ↔ s.sub ≠ .arm
  /-- While the timer runs its period is `T` and the counter is below it (R91, R147, R119). -/
  period : s.trun = true → s.tper = s.ticksPerMs ∧ s.tcnt.toNat < s.ticksPerMs.toNat
  /-- A set flag is examined in the cycle after the expiry (R94, R179). -/
  flagFresh : s.trun = true → s.tifg = true → s.tcnt = 0
  /-- After the last tick of a wait the flag is clear when the poller looks (R179). -/
  lastTick : s.sub = .run → s.mscnt = 0 → s.tifg = false
  /-- `STOP` comes after the last tick (R91). -/
  stopZero : s.sub = .stop → s.mscnt = 0

/-- "`rst = 0` throughout the run" (R152): the outside does not reset the block at any of the next `n` edges. -/
def State.noResetFor (n : Nat) (s : State) : Prop := ∀ inp ∈ s.inputs.take n, inp.rst = false

/-- The environment leaves the foreign bits alone at the next `n` edges. -/
def State.noForeignFor (n : Nat) (s : State) : Prop := ∀ inp ∈ s.inputs.take n, inp.foreign = none

/-- The host offers the word `w` at the coming edge (R27). -/
def State.offers (s : State) (w : CmdWord) : Prop :=
  s.nextInputs.cmdValid = true ∧ commandWord s.nextInputs.cmdOp s.nextInputs.cmdArg = w

end Sys2Proof.Machine
end

