-- ==== Sys2Proof/Certificates/Slice0/Obligations.lean ====
section
/-! DEFINITION. The statements for the provers. Each docstring names the rule of spec/ it formalises. -/

open Sys2Proof Sys2Proof.Machine

/-! ## Encoding -/

/-- R70, R71, R74: the decoder gives back every command its canonical word stands for, with every operand value. -/
def Obligations.DecodeInvertsEncode : Prop :=
  ∀ i : Instr, i.wf = true → decode (encode i) = .ok i ∧ CmdWord.canonical (encode i) = true

/-- R71: each command's operand is the low bits of `arg`, bit by bit. -/
def Obligations.OperandsAreLowArgumentBits : Prop :=
  ∀ arg : Arg,
    (∃ v, decode (commandWord 1 arg) = .ok (.setrs v) ∧ ∀ k < 1, v.getLsbD k = arg.getLsbD k) ∧
    (∃ v, decode (commandWord 2 arg) = .ok (.seten v) ∧ ∀ k < 1, v.getLsbD k = arg.getLsbD k) ∧
    (∃ n, decode (commandWord 3 arg) = .ok (.setnib n) ∧ ∀ k < 4, n.getLsbD k = arg.getLsbD k) ∧
    decode (commandWord 4 arg) = .ok .flush ∧
    (∃ c, decode (commandWord 5 arg) = .ok (.delay c) ∧ ∀ k < 16, c.getLsbD k = arg.getLsbD k) ∧
    (∃ b, decode (commandWord 6 arg) = .ok (.sendi b) ∧ ∀ k < 8, b.getLsbD k = arg.getLsbD k) ∧
    (∃ b, decode (commandWord 7 arg) = .ok (.sendd b) ∧ ∀ k < 8, b.getLsbD k = arg.getLsbD k)

/-- R72: a word is a command exactly when it matches one row of the opcode map, and then it is that row's command; no
word matches two rows; `op[0]` of the two sends is the `RS` value of their first micro-step. -/
def Obligations.DecoderAgreesWithOpcodeMap : Prop :=
  (∀ w : CmdWord, ∀ r ∈ opcodeTable,
    (w &&& r.mask = r.matchBits ↔ ∃ i, decode w = .ok i ∧ i.mnemonic = r.mnemonic)) ∧
  (∀ w : CmdWord, ∀ r ∈ opcodeTable, ∀ r' ∈ opcodeTable,
    w &&& r.mask = r.matchBits → w &&& r'.mask = r'.matchBits → r = r') ∧
  (∀ (w : CmdWord) (i : Instr) (b : Byte), decode w = .ok i → i = .sendi b ∨ i = .sendd b →
    ∀ s, s.step = 0 → ∃ t, exec i s = .next t ∧ t.rs = w.extractLsb' 16 1)

/-- R74: words that agree in the opcode and the operand bits are the same command; a command's canonical word is any of
its words with the `x` bits cleared; and the assembler of R76 produces canonical words only. -/
def Obligations.IgnoredBitsAndCanonicalWords : Prop :=
  (∀ w w' : CmdWord, w.op = w'.op → w &&& operandMask w.op = w' &&& operandMask w.op → decode w = decode w') ∧
  (∀ (w : CmdWord) (i : Instr), decode w = .ok i → encode i = w &&& (0xF0000 ||| operandMask w.op)) ∧
  (∀ lines ws, assemble lines = .ok ws → ∀ w ∈ ws, CmdWord.canonical w = true)

/-- R73: opcodes `0x0` and `0x8` to `0xF` are reserved: the decoder rejects them by name, and the machine has no step for
a word that has one. -/
def Obligations.ReservedOpcodesAreRefused : Prop :=
  (∀ w : CmdWord, decode w = .error (.reservedOpcode w.op) ↔ w.op.toNat = 0 ∨ 8 ≤ w.op.toNat) ∧
  (∀ (s : State) (w : CmdWord), w.op.toNat = 0 ∨ 8 ≤ w.op.toNat → s.cmdReady = true → s.offers w →
    step s = .refused (.reservedOpcode w.op))

/-- A sanity check of a few words of 95_test_vectors.md B1, non-canonical ones and a reserved one among them. -/
def Obligations.SampleWordsDecode : Prop :=
  decode 0x10001 = .ok (.setrs 1) ∧ decode 0x1FFFE = .ok (.setrs 0) ∧ decode 0x28001 = .ok (.seten 1) ∧
  decode 0x30013 = .ok (.setnib 3) ∧ decode 0x4ABCD = .ok .flush ∧ decode 0x50014 = .ok (.delay 20) ∧
  decode 0x6FF80 = .ok (.sendi 0x80) ∧ decode 0x70041 = .ok (.sendd 0x41) ∧
  decode 0x80000 = .error (.reservedOpcode 8)

/-! ## Reset -/

/-- R30: the reset value of every register, in `State.reset` and after any reset; `POUT` is not changed by reset. -/
def Obligations.ResetValues : Prop :=
  ∀ s r : State, r = resetEdge s ∨ r = State.reset →
    r.rs = 0 ∧ r.en = 0 ∧ r.nib = 0 ∧ r.trun = false ∧ r.tper = 0 ∧ r.tcnt = 0 ∧ r.tifg = false ∧
    r.mscnt = 0 ∧ r.ph = .idle ∧ r.opl = 0 ∧ r.argl = 0 ∧ r.step = 0 ∧ r.sub = .arm ∧ r.trace = [] ∧
    (resetEdge s).pout = s.pout

/-- R144 (first row), R160, R161: a clock edge with `rst = 1` resets the block from any state, in the middle of a command
too; `POUT[5:0]` keeps its value, the foreign bits are the environment's; no command is accepted. -/
def Obligations.ResetWinsAtAnyEdge : Prop :=
  ∀ s : State, s.nextInputs.rst = true →
    s.cmdReady = false ∧
    ∃ t, step s = .next t ∧
      t.rs = 0 ∧ t.en = 0 ∧ t.nib = 0 ∧ t.trun = false ∧ t.tper = 0 ∧ t.tcnt = 0 ∧ t.tifg = false ∧
      t.mscnt = 0 ∧ t.ph = .idle ∧ t.opl = 0 ∧ t.argl = 0 ∧ t.step = 0 ∧ t.sub = .arm ∧ t.trace = [] ∧
      t.pout.own = s.pout.own ∧ t.pout = s.pout.environment s.nextInputs ∧ t.ticksPerMs = s.ticksPerMs

/-- The invariant holds right after reset. The registers of it are R30's values; the width 8 of `POUT` is the spec's
default (log entry 3) and `T` is any value of its range (log entry 2). -/
def Obligations.ResetSatisfiesInvariant : Prop := State.reset.Inv

/-! ## Command channel and step -/

/-- R27: `cmd_ready`, what acceptance writes, and that a running block ignores the command lines. -/
def Obligations.AcceptanceLatchesTheOfferedWord : Prop :=
  (∀ s : State, s.cmdReady = true ↔ s.ph = .idle ∧ s.nextInputs.rst = false) ∧
  (∀ (s : State) (w : CmdWord) (i : Instr), s.cmdReady = true → s.offers w → decode w = .ok i →
    ∃ t, step s = .next t ∧ t.opl = w.op ∧ t.argl = w.arg ∧ t.step = 0 ∧ t.sub = .arm ∧ t.ph = .exec ∧
      t.rs = s.rs ∧ t.en = s.en ∧ t.nib = s.nib ∧ t.pout.own = s.pout.own ∧ t.trun = s.trun ∧
      t.tper = s.tper ∧ t.mscnt = s.mscnt ∧ t.trace = s.trace) ∧
  (∀ (s : State) (inp : Inputs) (rest : List Inputs) (v : Bool) (op : Opcode) (arg : Arg),
    s.ph = .exec → s.inputs = inp :: rest →
    step { s with inputs := { inp with cmdValid := v, cmdOp := op, cmdArg := arg } :: rest } = step s)

/-- R151: an idle block to which nothing is offered keeps all its state; only the environment's part changes. -/
def Obligations.IdleBlockKeepsItsState : Prop :=
  ∀ s : State, s.ph = .idle → s.trun = false → s.nextInputs.rst = false → s.nextInputs.cmdValid = false →
    step s = .next { s with
      pout := s.pout.environment s.nextInputs, ioEnable := s.nextInputs.ioEnable,
      inputs := s.inputs.tail, edges := s.edges + 1 }

/-- R26: while `PH = IDLE` the values of `OPL`, `ARGL`, `STEP`, `SUB` have no effect on anything: at the next acceptance
or reset the block does the same whatever they are. -/
def Obligations.IdleSequencerRegistersHaveNoEffect : Prop :=
  ∀ (s : State) (op : Opcode) (arg : Arg) (st : BitVec 4) (sub : SubStep), s.ph = .idle →
    s.nextInputs.rst = true ∨ s.nextInputs.cmdValid = true →
    step { s with opl := op, argl := arg, step := st, sub := sub } = step s

/-- A step of a running block is the meaning of the latched command, on the state the environment leaves, followed by
the timer's action at the same edge. -/
def Obligations.StepRunsTheLatchedCommand : Prop :=
  ∀ (s : State) (i : Instr), s.ph = .exec → s.nextInputs.rst = false → decode s.latched = .ok i → i.wf = true →
    step s = onNext (exec i (environment s.nextInputs s)) (timerEdge (environment s.nextInputs s))

/-- A table word placed as the next command is what the very next step runs (log entry 12). -/
def Obligations.FetchWordRunsNext : Prop :=
  ∀ (s : State) (nbits w : Nat) (i : Instr), decodeTableWord nbits w = some i →
    step (s.withFetchWord nbits w) =
      onNext (exec i (environment (s.withFetchWord nbits w).nextInputs (s.withFetchWord nbits w)))
        (timerEdge (environment (s.withFetchWord nbits w).nextInputs (s.withFetchWord nbits w)))

/-! ## The commands -/

/-- R100, R101, R102: each of the three commands writes its field and nothing else, emits nothing, and ends. -/
def Obligations.SetCommandsWriteOneField : Prop :=
  ∀ s : State, s.step = 0 →
    (∀ v, exec (.setrs v) s = .next { s with rs := v, step := 1, ph := .idle }) ∧
    (∀ v, exec (.seten v) s = .next { s with en := v, step := 1, ph := .idle }) ∧
    (∀ n, exec (.setnib n) s = .next { s with nib := n, step := 1, ph := .idle }) ∧
    (∀ arg : Arg, decode (commandWord 0x1 arg) = .ok (.setrs (arg.extractLsb' 0 1)) ∧
      decode (commandWord 0x2 arg) = .ok (.seten (arg.extractLsb' 0 1)) ∧
      decode (commandWord 0x3 arg) = .ok (.setnib (arg.extractLsb' 0 4)))

/-- R103, R104: `FLUSH` writes `{NIB, EN, RS}` to `POUT[5:0]`, leaves every foreign bit and every register, and emits
`Out`. -/
def Obligations.FlushWritesSixPortBits : Prop :=
  ∀ s : State, s.step = 0 → ∃ t, exec .flush s = .next t ∧
    t = { s with pout := t.pout, trace := s.trace ++ [.out (s.nib ++ s.en ++ s.rs)], step := 1, ph := .idle } ∧
    t.pout.width = s.pout.width ∧
    (∀ k < s.pout.width, t.pout.bit k = if k < 6 then (s.nib ++ s.en ++ s.rs).getLsbD k else s.pout.bit k) ∧
    (6 ≤ s.pout.width → t.pout.bits.toNat =
      s.pout.bits.toNat - s.pout.bits.toNat % 64 + 4 * s.nib.toNat + 2 * s.en.toNat + s.rs.toNat) ∧
    (∀ arg : Arg, decode (commandWord 0x4 arg) = .ok .flush)

/-- R51, R78: register-select on bit 0, enable on bit 1, nibble bit `i` on bit `i + 2`; as a number
`4*NIB + 2*EN + RS`. -/
def Obligations.PinLayout : Prop :=
  ∀ (nib : Nibble) (en rs : BitVec 1),
    (pinValue nib en rs).getLsbD 0 = rs.getLsbD 0 ∧ (pinValue nib en rs).getLsbD 1 = en.getLsbD 0 ∧
    (∀ i < 4, (pinValue nib en rs).getLsbD (i + 2) = nib.getLsbD i) ∧
    (pinValue nib en rs).toNat = 4 * nib.toNat + 2 * en.toNat + rs.toNat

/-- R90, R91: one clock edge of `DELAY count`, at each of the three sub-steps. -/
def Obligations.DelaySubSteps : Prop :=
  ∀ (n : Count) (s : State), s.step = 0 →
    (s.sub = .arm → exec (.delay n) s = .next { s with
      mscnt := n, tper := s.ticksPerMs, tcnt := 0, tifg := false, trun := true,
      trace := s.trace ++ [.arm], sub := .run }) ∧
    (s.sub = .run → s.mscnt = 0 → exec (.delay n) s = .next { s with sub := .stop }) ∧
    (s.sub = .run → s.mscnt ≠ 0 → s.tifg = true → exec (.delay n) s = .next { s with
      tifg := false, mscnt := s.mscnt - 1, trace := s.trace ++ [.tick] }) ∧
    (s.sub = .run → s.mscnt ≠ 0 → s.tifg = false → exec (.delay n) s = .next s) ∧
    (s.sub = .stop → exec (.delay n) s = .next { s with
      trun := false, trace := s.trace ++ [.disarm], sub := .arm, step := 1, ph := .idle })

/-- R91: the same for every `Wait(n)` micro-step of every command; `STOP` ends the micro-step, and ends the command when
it was its last; no sub-step sets `TIFG`. -/
def Obligations.WaitSubStepsOfEveryCommand : Prop :=
  ∀ (i : Instr) (n : Count) (s : State), (microSteps i)[s.step.toNat]? = some (.wait n) →
    (s.sub = .arm → exec i s = .next { s with
      mscnt := n, tper := s.ticksPerMs, tcnt := 0, tifg := false, trun := true,
      trace := s.trace ++ [.arm], sub := .run }) ∧
    (s.sub = .run → s.mscnt = 0 → exec i s = .next { s with sub := .stop }) ∧
    (s.sub = .run → s.mscnt ≠ 0 → s.tifg = true → exec i s = .next { s with
      tifg := false, mscnt := s.mscnt - 1, trace := s.trace ++ [.tick] }) ∧
    (s.sub = .run → s.mscnt ≠ 0 → s.tifg = false → exec i s = .next s) ∧
    (s.sub = .stop → exec i s = .next { s with
      trun := false, trace := s.trace ++ [.disarm], sub := .arm, step := s.step + 1,
      ph := if s.step.toNat + 1 = (microSteps i).length then .idle else s.ph }) ∧
    (∀ t, exec i s = .next t → s.tifg = false → t.tifg = false)

/-- R110, R111, R112: the five flushing micro-steps of a transfer, and that the four between them are `Wait(1)`. -/
def Obligations.TransferMicroSteps : Prop :=
  ∀ (i : Instr) (rs : BitVec 1) (b : Byte) (s : State), (i = .sendi b ∧ rs = 0) ∨ (i = .sendd b ∧ rs = 1) →
    (s.step = 0 → exec i s = .next { s with
      rs := rs, en := 0, nib := b.extractLsb' 4 4, pout := s.pout.writeOwn (b.extractLsb' 4 4 ++ 0#1 ++ rs),
      trace := s.trace ++ [.out (b.extractLsb' 4 4 ++ 0#1 ++ rs)], step := 1 }) ∧
    (s.step = 2 → exec i s = .next { s with
      en := 1, pout := s.pout.writeOwn (s.nib ++ 1#1 ++ s.rs),
      trace := s.trace ++ [.out (s.nib ++ 1#1 ++ s.rs)], step := 3 }) ∧
    (s.step = 4 → exec i s = .next { s with
      en := 0, nib := b.extractLsb' 0 4, pout := s.pout.writeOwn (b.extractLsb' 0 4 ++ 0#1 ++ s.rs),
      trace := s.trace ++ [.out (b.extractLsb' 0 4 ++ 0#1 ++ s.rs)], step := 5 }) ∧
    (s.step = 6 → exec i s = .next { s with
      en := 1, pout := s.pout.writeOwn (s.nib ++ 1#1 ++ s.rs),
      trace := s.trace ++ [.out (s.nib ++ 1#1 ++ s.rs)], step := 7 }) ∧
    (s.step = 8 → exec i s = .next { s with
      en := 0, pout := s.pout.writeOwn (s.nib ++ 0#1 ++ s.rs),
      trace := s.trace ++ [.out (s.nib ++ 0#1 ++ s.rs)], step := 9, ph := .idle }) ∧
    (∀ k : Nat, k < 9 → k % 2 = 1 → (microSteps i)[k]? = some (.wait 1)) ∧ (microSteps i).length = 9

/-- R26, R75, R140: a command completes its edge in every state whose `STEP` is one of its micro-steps, whatever else
holds: `STEP = 0` for five commands, `STEP` 0 to 8 for the two transfers. The last clause is no rule of the spec but the
model's own DESIGN CHOICE (log entry 10): in the other states, which no run reaches, it stops by name. -/
def Obligations.CommandsCompleteAtEveryMicroStep : Prop :=
  ∀ s : State,
    (s.step = 0 → (∀ v, ∃ t, exec (.setrs v) s = .next t) ∧ (∀ v, ∃ t, exec (.seten v) s = .next t) ∧
      (∀ n, ∃ t, exec (.setnib n) s = .next t) ∧ (∃ t, exec .flush s = .next t) ∧
      (∀ n, ∃ t, exec (.delay n) s = .next t)) ∧
    (s.step.toNat ≤ 8 → ∀ b, (∃ t, exec (.sendi b) s = .next t) ∧ (∃ t, exec (.sendd b) s = .next t)) ∧
    (∀ i : Instr, (microSteps i).length ≤ s.step.toNat → exec i s = .fault .noSuchMicroStep)

/-- Frames: what one edge of each command leaves unchanged, in every state in which it answers a next state. -/
def Obligations.CommandFrames : Prop :=
  ∀ (i : Instr) (s t : State), exec i s = .next t →
    (t.opl = s.opl ∧ t.argl = s.argl ∧ t.ticksPerMs = s.ticksPerMs ∧ t.ioEnable = s.ioEnable ∧
      t.inputs = s.inputs ∧ t.edges = s.edges ∧ t.pout.width = s.pout.width ∧
      ∀ k, 6 ≤ k → t.pout.bit k = s.pout.bit k) ∧
    ((∃ v, i = .setrs v) ∨ (∃ v, i = .seten v) ∨ (∃ n, i = .setnib n) ∨ (∃ n, i = .delay n) →
      t.pout = s.pout) ∧
    ((∃ v, i = .setrs v) ∨ (∃ v, i = .seten v) ∨ (∃ n, i = .setnib n) ∨ i = .flush →
      t.trun = s.trun ∧ t.tper = s.tper ∧ t.tcnt = s.tcnt ∧ t.tifg = s.tifg ∧ t.mscnt = s.mscnt ∧ t.sub = s.sub) ∧
    (i = .flush ∨ (∃ n, i = .delay n) → t.rs = s.rs ∧ t.en = s.en ∧ t.nib = s.nib) ∧
    ((∃ v, i = .setrs v) → t.en = s.en ∧ t.nib = s.nib ∧ t.trace = s.trace) ∧
    ((∃ v, i = .seten v) → t.rs = s.rs ∧ t.nib = s.nib ∧ t.trace = s.trace) ∧
    ((∃ n, i = .setnib n) → t.rs = s.rs ∧ t.en = s.en ∧ t.trace = s.trace) ∧
    ((∃ b, i = .sendi b) ∨ (∃ b, i = .sendd b) → s.step.toNat % 2 = 1 →
      t.rs = s.rs ∧ t.en = s.en ∧ t.nib = s.nib ∧ t.pout = s.pout) ∧
    ((∃ b, i = .sendi b) ∨ (∃ b, i = .sendd b) → s.step.toNat % 2 = 0 →
      t.trun = s.trun ∧ t.tper = s.tper ∧ t.tcnt = s.tcnt ∧ t.tifg = s.tifg ∧ t.mscnt = s.mscnt ∧ t.sub = s.sub)

/-! ## The timer -/

/-- R147: the timer counts in every cycle in which `TRUN = 1` and `ARM` is not performed, returns to 0 and sets `TIFG`
when it reaches `TPER - 1`; stopped, it changes neither register; `ARM` wins; nothing but an expiry sets `TIFG`. -/
def Obligations.TimerCountsItsPeriod : Prop :=
  ∀ s t : State, step s = .next t → s.nextInputs.rst = false →
    (s.trun = true → ¬ (s.sub = .arm ∧ t.sub = .run) → s.tcnt = s.tper - 1 → t.tcnt = 0 ∧ t.tifg = true) ∧
    (s.trun = true → ¬ (s.sub = .arm ∧ t.sub = .run) → s.tcnt ≠ s.tper - 1 → t.tcnt = s.tcnt + 1) ∧
    (s.trun = false → ¬ (s.sub = .arm ∧ t.sub = .run) → t.tcnt = s.tcnt) ∧
    (s.sub = .arm ∧ t.sub = .run →
      t.tcnt = 0 ∧ t.tifg = false ∧ t.tper = s.ticksPerMs ∧ t.trun = true) ∧
    (s.tifg = false → t.tifg = true → s.trun = true ∧ s.tcnt = s.tper - 1)

/-- R94, R144, R179: in a reachable state the timer never expires while a tick still to be counted is flagged, so the
poller's clear and the timer's set never meet and no tick is lost. -/
def Obligations.NoTickIsLost : Prop :=
  ∀ s : State, s.Inv → s.trun = true → s.tifg = true →
    s.expiring = false ∧
    ∀ t, step s = .next t → s.nextInputs.rst = false → s.sub = .run → s.mscnt ≠ 0 →
      t.tifg = false ∧ t.mscnt.toNat + 1 = s.mscnt.toNat ∧ t.trace = s.trace ++ [.tick]

/-- R148: in a reachable state the timer is stopped while the block is idle and at every micro-step that is no wait. -/
def Obligations.TimerStoppedOutsideWaits : Prop :=
  ∀ s : State, s.Inv → s.ph = .idle ∨
      (∃ i ps, decode s.latched = .ok i ∧ s.ph = .exec ∧ (microSteps i)[s.step.toNat]? = some (.body ps)) →
    s.trun = false

/-- R91, R178, R179: `Wait(n)` of any command takes exactly 3 cycles for `n = 0` and `n*T + 4` otherwise, emits `Arm, Tick^n,
Disarm`, and leaves the timer stopped, `MSCNT = 0`, `TPER = T` and the control state and `POUT[5:0]` as they were. The exact
count rests on decision D19, which the model adopts by DESIGN CHOICE (log entry 1). -/
def Obligations.WaitTakesItsCycles : Prop :=
  ∀ (s : State) (i : Instr) (n : Count), s.Inv → s.ph = .exec → decode s.latched = .ok i →
    (microSteps i)[s.step.toNat]? = some (.wait n) → s.sub = .arm →
    s.noResetFor (if n.toNat = 0 then 3 else n.toNat * s.ticksPerMs.toNat + 4) →
    ∃ t, Host.Core.run Sys2Proof.core (if n.toNat = 0 then 3 else n.toNat * s.ticksPerMs.toNat + 4) s = .next t ∧
      t.step = s.step + 1 ∧ t.sub = .arm ∧ t.trun = false ∧ t.mscnt = 0 ∧ t.tper = s.ticksPerMs ∧
      t.trace = s.trace ++ (.arm :: (List.replicate n.toNat .tick ++ [.disarm])) ∧
      t.rs = s.rs ∧ t.en = s.en ∧ t.nib = s.nib ∧ t.pout.own = s.pout.own

/-- R93: for at least `n * T` clock cycles from `ARM` on, `Wait(n)` keeps the pins' register as it is and the command at
the same micro-step. -/
def Obligations.WaitHoldsThePins : Prop :=
  ∀ (s : State) (i : Instr) (n : Count) (k : Nat), s.Inv → s.ph = .exec → decode s.latched = .ok i →
    (microSteps i)[s.step.toNat]? = some (.wait n) → s.sub = .arm →
    k ≤ n.toNat * s.ticksPerMs.toNat → s.noResetFor k →
    ∃ t, Host.Core.run Sys2Proof.core k s = .next t ∧
      t.pout.own = s.pout.own ∧ outs t.trace = outs s.trace ∧ t.step = s.step ∧ t.ph = .exec

/-- R92: `DELAY 0` arms the timer, observes no tick and disarms it. That this takes three edges is no part of R92 but
R178 and R179 under decision D19, which the model adopts by DESIGN CHOICE (log entry 1). -/
def Obligations.DelayZeroArmsAndDisarms : Prop :=
  ∀ s : State, s.ph = .exec → decode s.latched = .ok (.delay 0) → s.step = 0 → s.sub = .arm → s.noResetFor 3 →
    ∃ t, Host.Core.run Sys2Proof.core 3 s = .next t ∧
      t.trace = s.trace ++ [.arm, .disarm] ∧ t.mscnt = 0 ∧ t.trun = false ∧ t.tper = s.ticksPerMs ∧ t.ph = .idle

/-! ## Whole commands -/

/-- R90, R100 to R103, R110 to R112, R116, R178, R180: from acceptance, every command runs to its end in exactly its
number of cycles, emits exactly its events, and leaves the control state and `POUT[5:0]` its rule gives; the foreign bits
are as the environment's writes made them. The exact count rests on decision D19, which the model adopts by DESIGN CHOICE
(log entry 1). -/
def Obligations.CommandRunsToItsEnd : Prop :=
  ∀ (s : State) (w : CmdWord) (i : Instr), s.Inv → s.cmdReady = true → s.offers w → decode w = .ok i →
    s.noResetFor (commandCycles s.ticksPerMs.toNat i) →
    ∃ t, Host.Core.run Sys2Proof.core (commandCycles s.ticksPerMs.toNat i) s = .next t ∧
      t.ph = .idle ∧ t.trun = false ∧ t.step.toNat = (microSteps i).length ∧
      t.trace = s.trace ++ commandEvents s i ∧
      t.rs = commandRs s i ∧ t.en = commandEn s i ∧ t.nib = commandNib s i ∧ t.pout.own = commandOwn s i ∧
      (∀ k, 6 ≤ k → t.pout.bit k =
        ((s.inputs.take (commandCycles s.ticksPerMs.toNat i)).foldl Port.environment s.pout).bit k)

/-- R27, R55, R117: between acceptance and its last cycle the block is busy: no other command can start. The number of
cycles is R178 to R180 under decision D19, which the model adopts by DESIGN CHOICE (log entry 1). -/
def Obligations.CommandIsBusyUntilItsEnd : Prop :=
  ∀ (s : State) (w : CmdWord) (i : Instr) (k : Nat), s.Inv → s.cmdReady = true → s.offers w → decode w = .ok i →
    0 < k → k < commandCycles s.ticksPerMs.toNat i → s.noResetFor k →
    ∃ t, Host.Core.run Sys2Proof.core k s = .next t ∧ t.ph = .exec ∧ t.cmdReady = false ∧
      t.opl = w.op ∧ t.argl = w.arg

/-- R116: the end state of a transfer. That it is reached `4T + 22` edges after the offer is no part of R116 but R180
under decision D19, which the model adopts by DESIGN CHOICE (log entry 1). -/
def Obligations.TransferEndState : Prop :=
  ∀ (s : State) (w : CmdWord) (b : Byte) (rs : BitVec 1), s.Inv → s.cmdReady = true → s.offers w →
    (decode w = .ok (.sendi b) ∧ rs = 0) ∨ (decode w = .ok (.sendd b) ∧ rs = 1) →
    s.noResetFor (4 * s.ticksPerMs.toNat + 22) →
    ∃ t, Host.Core.run Sys2Proof.core (4 * s.ticksPerMs.toNat + 22) s = .next t ∧
      t.rs = rs ∧ t.en = 0 ∧ t.nib = b.extractLsb' 0 4 ∧ t.pout.own = b.extractLsb' 0 4 ++ 0#1 ++ rs ∧
      (∀ k, 6 ≤ k → t.pout.bit k =
        ((s.inputs.take (4 * s.ticksPerMs.toNat + 22)).foldl Port.environment s.pout).bit k) ∧
      t.trun = false ∧ t.mscnt = 0 ∧ t.tper = s.ticksPerMs ∧ t.ph = .idle ∧ t.pout.own = t.v6

/-- R180: the cycle counts of the seven commands, under decision D19, which the model adopts by DESIGN CHOICE (log
entry 1). -/
def Obligations.CommandCycleCounts : Prop :=
  ∀ t : Nat, (∀ v, commandCycles t (.setrs v) = 2) ∧ (∀ v, commandCycles t (.seten v) = 2) ∧
    (∀ n, commandCycles t (.setnib n) = 2) ∧ commandCycles t .flush = 2 ∧ commandCycles t (.delay 0) = 4 ∧
    (∀ n : Count, 1 ≤ n.toNat → commandCycles t (.delay n) = n.toNat * t + 5) ∧
    (∀ b, commandCycles t (.sendi b) = 4 * t + 22) ∧ (∀ b, commandCycles t (.sendd b) = 4 * t + 22)

/-! ## The trace -/

/-- R79, R111, R112: the timed pin trace of a transfer, with `H` the high nibble of the byte and `L` its low nibble. -/
def Obligations.TransferTimedPinTrace : Prop :=
  ∀ (s : State) (b : Byte) (i : Instr) (rs : Pins), (i = .sendi b ∧ rs = 0) ∨ (i = .sendd b ∧ rs = 1) →
    timedPinTrace (commandEvents s i) =
      [ ((b.extractLsb' 4 4).setWidth 6 <<< 2 ||| rs, 1), ((b.extractLsb' 4 4).setWidth 6 <<< 2 ||| 2 ||| rs, 1),
        ((b.extractLsb' 0 4).setWidth 6 <<< 2 ||| rs, 1), ((b.extractLsb' 0 4).setWidth 6 <<< 2 ||| 2 ||| rs, 1),
        ((b.extractLsb' 0 4).setWidth 6 <<< 2 ||| rs, 0) ]

/-- R113: a transfer emits exactly five `Out` events and exactly four waits of one tick. -/
def Obligations.TransferEventCounts : Prop :=
  ∀ (s : State) (b : Byte) (i : Instr), i = .sendi b ∨ i = .sendd b →
    (outs (commandEvents s i)).length = 5 ∧ (commandEvents s i).count .arm = 4 ∧
    (commandEvents s i).count .tick = 4 ∧ (commandEvents s i).count .disarm = 4 ∧ (commandEvents s i).length = 17

/-- R114, R118, R165, R167: with `pin[1] = 0` before it a transfer makes two rising and two falling enable edges, with
register-select the value of the command throughout and nothing but enable changing at a rise; it breaks the source's
whole stability invariant exactly when the two nibbles differ; with `pin[1] = 1` before it there is a third falling
edge. -/
def Obligations.TransferEnableEdges : Prop :=
  ∀ (s : State) (b : Byte) (i : Instr) (rs : Bool) (v : Pins), (i = .sendi b ∧ rs = false) ∨ (i = .sendd b ∧ rs = true) →
    (enLine v = false →
      risingEdges v (outs (commandEvents s i)) = 2 ∧ fallingEdges v (outs (commandEvents s i)) = 2 ∧
      stableAtRise v (outs (commandEvents s i)) = true ∧
      (stableAtEdges v (outs (commandEvents s i)) = true ↔ highNibble b = lowNibble b)) ∧
    (enLine v = true → risingEdges v (outs (commandEvents s i)) = 2 ∧ fallingEdges v (outs (commandEvents s i)) = 3) ∧
    (∀ u ∈ outs (commandEvents s i), u.getLsbD 0 = rs)

/-- R8, R57: a clock edge without reset appends at most one event to the trace and changes nothing already there. -/
def Obligations.TraceGrowsByAtMostOneEvent : Prop :=
  ∀ s t : State, step s = .next t → s.nextInputs.rst = false → t.trace = s.trace ∨ ∃ e, t.trace = s.trace ++ [e]

/-! ## The port, the pins, the control state -/

/-- R22, R57, R104: `POUT[5:0]` changes at a clock edge only by a `Flush()`, whose event carries the new value. -/
def Obligations.OnlyFlushChangesThePins : Prop :=
  ∀ s t : State, 6 ≤ s.pout.width → step s = .next t → t.pout.own ≠ s.pout.own →
    t.trace = s.trace ++ [.out t.pout.own] ∧ t.pout.own = t.v6 ∧ s.ph = .exec ∧
    (s.opl = 4 ∨ s.opl = 6 ∨ s.opl = 7)

/-- R59: a foreign bit is as the environment last set it, whatever the block does at the same edge; the environment never
writes `POUT[5:0]`. -/
def Obligations.ForeignBitsBelongToTheEnvironment : Prop :=
  (∀ (s t : State) (k : Nat), step s = .next t → 6 ≤ k → k < s.pout.width →
    t.pout.bit k = (match s.nextInputs.foreign with
      | none => s.pout.bit k
      | some f => f.testBit (k - 6))) ∧
  (∀ (p : Port) (inp : Inputs), (p.environment inp).own = p.own ∧ (p.environment inp).width = p.width)

/-- R23: while `io_enable` is 1, `pin[i] = POUT[i]` for `i` from 0 to 5; `io_enable` is what the environment drives. -/
def Obligations.PinsShowThePort : Prop :=
  (∀ (s : State) (i : Nat), s.ioEnable = true → i < 6 → s.pins.getLsbD i = s.pout.bit i) ∧
  (∀ s t : State, step s = .next t → t.ioEnable = s.nextInputs.ioEnable)

/-- R21: without reset, `RS` changes only while `SETRS`, `SENDI` or `SENDD` runs, `EN` only while `SETEN`, `SENDI` or
`SENDD` runs, and `NIB` only while `SETNIB`, `SENDI` or `SENDD` runs. -/
def Obligations.ControlStateWriters : Prop :=
  ∀ s t : State, step s = .next t → s.nextInputs.rst = false →
    (t.rs ≠ s.rs → s.ph = .exec ∧ (s.opl = 1 ∨ s.opl = 6 ∨ s.opl = 7)) ∧
    (t.en ≠ s.en → s.ph = .exec ∧ (s.opl = 2 ∨ s.opl = 6 ∨ s.opl = 7)) ∧
    (t.nib ≠ s.nib → s.ph = .exec ∧ (s.opl = 3 ∨ s.opl = 6 ∨ s.opl = 7))

/-- R26: `STEP` starts at 0 with a command, is incremented by exactly one when a micro-step completes, never otherwise
changes, and is at most 9; `PH` becomes `IDLE` exactly when the last micro-step completes. -/
def Obligations.StepIndexOnlyAdvances : Prop :=
  ∀ s t : State, s.Inv → step s = .next t → s.nextInputs.rst = false → s.ph = .exec →
    (t.step = s.step ∨ t.step.toNat = s.step.toNat + 1) ∧ t.step.toNat ≤ 9 ∧
    ∃ i, decode s.latched = .ok i ∧ (t.ph = .idle ↔ t.step.toNat = (microSteps i).length) ∧
      t.opl = s.opl ∧ t.argl = s.argl

/-- R4: the parameters `TICKS_PER_MS` and `PORT_W` are constants of the machine: no edge changes them. -/
def Obligations.ParametersAreConstant : Prop :=
  ∀ s t : State, step s = .next t → t.ticksPerMs = s.ticksPerMs ∧ t.pout.width = s.pout.width

/-! ## The whole machine -/

/-- Every clock edge keeps the invariant, from every state that has it. -/
def Obligations.StepKeepsInvariant : Prop := ∀ s t : State, s.Inv → step s = .next t → t.Inv

/-- R73, R75, R140: from a state with the invariant a clock edge always completes, but for the one input the spec gives no
meaning: a reserved opcode offered to a ready block. -/
def Obligations.OnlyReservedOpcodesStopTheMachine : Prop :=
  ∀ s : State, s.Inv → (∃ t, step s = .next t) ∨
    (s.cmdReady = true ∧ ∃ w : CmdWord, s.offers w ∧ (w.op.toNat = 0 ∨ 8 ≤ w.op.toNat) ∧
      step s = .refused (.reservedOpcode w.op))

/-- R10, R94: the micro-step level admits every behaviour of the clock-edge machine: each edge is at most three
transitions of it, with the timer's counter forgotten. -/
def Obligations.MicroStepLevelAdmitsEveryEdge : Prop :=
  ∀ s t : State, s.Inv → step s = .next t →
    ∃ es : List MicroEvent, es.length ≤ 3 ∧ microRun es (microView s) = some (microView t)

/-! ## Bytes, nibbles and host sequences -/

/-- R52, R119: the two nibbles are the high and the low half of the byte. -/
def Obligations.NibblesMakeTheByte : Prop :=
  ∀ b : Byte, b.toNat = 16 * (highNibble b).toNat + (lowNibble b).toNat ∧
    highNibble b = b.extractLsb' 4 4 ∧ lowNibble b = b.extractLsb' 0 4

/-- R128: `SETCURSOR p` sends `0x80 + p` for `p < 15` and `0x80 + 48 + p` from 15 to 31, and is refused from 32 on. -/
def Obligations.SetCursorBytes : Prop :=
  ∀ (hp : HostParams) (p : Nat),
    (p < 15 → ∃ b : Byte, expand hp (.setCursor p) = .ok [.sendi b] ∧ b.toNat = 0x80 + p) ∧
    (15 ≤ p → p < 32 → ∃ b : Byte, expand hp (.setCursor p) = .ok [.sendi b] ∧ b.toNat = 0x80 + 48 + p) ∧
    (32 ≤ p → expand hp (.setCursor p) = .error (.cursorOutOfRange p))

/-- R129: `SENDSTRING s` is, for each of the first 32 characters in order, `SETCURSOR i` and `SENDD s[i]`, and nothing
for the rest. -/
def Obligations.SendStringCommands : Prop :=
  ∀ (hp : HostParams) (cs : List Byte), ∃ is, expand hp (.sendString cs) = .ok is ∧
    is.length = 2 * min cs.length 32 ∧
    ∀ (k : Nat) (c : Byte), k < 32 → cs[k]? = some c →
      (∃ j, setCursor k = .ok [j] ∧ is[2 * k]? = some j) ∧ is[2 * k + 1]? = some (.sendd c)

/-- R121 to R126: the command words of the handshake's parts, and the order of the configuration instructions. -/
def Obligations.HandshakeWords : Prop :=
  words initPhase0 = [0x10000, 0x20000, 0x30003, 0x40000, 0x50014] ∧
  words (pulse 5) = [0x20001, 0x40000, 0x50001, 0x20000, 0x40000, 0x50005] ∧
  words (sendNib 2 1) =
    [0x30002, 0x20000, 0x40000, 0x50001, 0x20001, 0x40000, 0x50001, 0x20000, 0x40000, 0x50001] ∧
  ∀ hp : HostParams, expand hp .init = .ok (initPhase0 ++ (pulse hp.initW1 ++ pulse hp.initW2 ++ pulse hp.initW3) ++
    (sendNib 0x2 1 ++ sendNib 0xC 1) ++
    [.sendi hp.iHome, .sendi hp.iEntry, .sendi hp.iDispOn, .sendi hp.iClear, .sendi 0x80]) ∧
    expand hp .clear = .ok [.sendi hp.iClear]
end

