-- ==== Sys2Proof/Laws/Decode.lean ====
section
/-! SUPPORT. The fields of a command word, and the word an acceptance latches. -/

namespace Sys2Proof

/-- Bit `k` of `{op, arg}`: the argument below bit 16, the opcode from there. -/
theorem getLsbD_commandWord (op : Opcode) (arg : Arg) (k : Nat) :
    (commandWord op arg).getLsbD k = if k < 16 then arg.getLsbD k else op.getLsbD (k - 16) :=
  BitVec.getLsbD_append (x := op) (y := arg)

@[simp] theorem CmdWord.op_commandWord (op : Opcode) (arg : Arg) : (commandWord op arg).op = op := by
  apply BitVec.eq_of_getLsbD_eq
  intro k hk
  simp only [CmdWord.op, BitVec.getLsbD_extractLsb', getLsbD_commandWord]
  simp [hk]

@[simp] theorem CmdWord.arg_commandWord (op : Opcode) (arg : Arg) : (commandWord op arg).arg = arg := by
  apply BitVec.eq_of_getLsbD_eq
  intro k hk
  simp only [CmdWord.arg, BitVec.getLsbD_extractLsb', getLsbD_commandWord]
  simp [hk]

/-- A command word is its two fields (R70). -/
@[simp] theorem commandWord_op_arg (w : CmdWord) : commandWord w.op w.arg = w := by
  apply BitVec.eq_of_getLsbD_eq
  intro k hk
  simp only [CmdWord.op, CmdWord.arg, getLsbD_commandWord, BitVec.getLsbD_extractLsb']
  by_cases h : k < 16
  · simp [h]
  · simp [h, show k - 16 < 4 by omega, show 16 + (k - 16) = k by omega]

/-- A command that decodes has one of the seven opcodes (R73). -/
theorem decode_ok_iff (w : CmdWord) : (∃ i, decode w = .ok i) ↔ 1 ≤ w.op.toNat ∧ w.op.toNat ≤ 7 := by
  unfold decode
  split <;> simp_all
  omega

namespace Machine

@[simp] theorem State.latched_accept (op : Opcode) (arg : Arg) (s : State) :
    (accept op arg s).latched = commandWord op arg := rfl

@[simp] theorem State.latched_environment (inp : Inputs) (s : State) :
    (environment inp s).latched = s.latched := rfl

end Machine

end Sys2Proof
end

