-- ==== Sys2Proof/Laws/State.lean ====
section
/-! SUPPORT. One lemma per field per update: what every field of State is after each named operation that updates it. -/

namespace Sys2Proof.Machine

@[simp] theorem emit_rs (e : Event) (s : State) : (emit e s).rs = s.rs := rfl
@[simp] theorem emit_en (e : Event) (s : State) : (emit e s).en = s.en := rfl
@[simp] theorem emit_nib (e : Event) (s : State) : (emit e s).nib = s.nib := rfl
@[simp] theorem emit_pout (e : Event) (s : State) : (emit e s).pout = s.pout := rfl
@[simp] theorem emit_trun (e : Event) (s : State) : (emit e s).trun = s.trun := rfl
@[simp] theorem emit_tper (e : Event) (s : State) : (emit e s).tper = s.tper := rfl
@[simp] theorem emit_tcnt (e : Event) (s : State) : (emit e s).tcnt = s.tcnt := rfl
@[simp] theorem emit_tifg (e : Event) (s : State) : (emit e s).tifg = s.tifg := rfl
@[simp] theorem emit_mscnt (e : Event) (s : State) : (emit e s).mscnt = s.mscnt := rfl
@[simp] theorem emit_ph (e : Event) (s : State) : (emit e s).ph = s.ph := rfl
@[simp] theorem emit_opl (e : Event) (s : State) : (emit e s).opl = s.opl := rfl
@[simp] theorem emit_argl (e : Event) (s : State) : (emit e s).argl = s.argl := rfl
@[simp] theorem emit_step (e : Event) (s : State) : (emit e s).step = s.step := rfl
@[simp] theorem emit_sub (e : Event) (s : State) : (emit e s).sub = s.sub := rfl
@[simp] theorem emit_trace (e : Event) (s : State) : (emit e s).trace = s.trace ++ [e] := rfl
@[simp] theorem emit_ticksPerMs (e : Event) (s : State) : (emit e s).ticksPerMs = s.ticksPerMs := rfl
@[simp] theorem emit_ioEnable (e : Event) (s : State) : (emit e s).ioEnable = s.ioEnable := rfl
@[simp] theorem emit_inputs (e : Event) (s : State) : (emit e s).inputs = s.inputs := rfl
@[simp] theorem emit_edges (e : Event) (s : State) : (emit e s).edges = s.edges := rfl

@[simp] theorem flushPort_rs (s : State) : (flushPort s).rs = s.rs := rfl
@[simp] theorem flushPort_en (s : State) : (flushPort s).en = s.en := rfl
@[simp] theorem flushPort_nib (s : State) : (flushPort s).nib = s.nib := rfl
@[simp] theorem flushPort_pout (s : State) : (flushPort s).pout = s.pout.writeOwn s.v6 := rfl
@[simp] theorem flushPort_trun (s : State) : (flushPort s).trun = s.trun := rfl
@[simp] theorem flushPort_tper (s : State) : (flushPort s).tper = s.tper := rfl
@[simp] theorem flushPort_tcnt (s : State) : (flushPort s).tcnt = s.tcnt := rfl
@[simp] theorem flushPort_tifg (s : State) : (flushPort s).tifg = s.tifg := rfl
@[simp] theorem flushPort_mscnt (s : State) : (flushPort s).mscnt = s.mscnt := rfl
@[simp] theorem flushPort_ph (s : State) : (flushPort s).ph = s.ph := rfl
@[simp] theorem flushPort_opl (s : State) : (flushPort s).opl = s.opl := rfl
@[simp] theorem flushPort_argl (s : State) : (flushPort s).argl = s.argl := rfl
@[simp] theorem flushPort_step (s : State) : (flushPort s).step = s.step := rfl
@[simp] theorem flushPort_sub (s : State) : (flushPort s).sub = s.sub := rfl
@[simp] theorem flushPort_trace (s : State) : (flushPort s).trace = s.trace ++ [.out s.v6] := rfl
@[simp] theorem flushPort_ticksPerMs (s : State) : (flushPort s).ticksPerMs = s.ticksPerMs := rfl
@[simp] theorem flushPort_ioEnable (s : State) : (flushPort s).ioEnable = s.ioEnable := rfl
@[simp] theorem flushPort_inputs (s : State) : (flushPort s).inputs = s.inputs := rfl
@[simp] theorem flushPort_edges (s : State) : (flushPort s).edges = s.edges := rfl

@[simp] theorem waitArm_rs (n : Count) (s : State) : (waitArm n s).rs = s.rs := rfl
@[simp] theorem waitArm_en (n : Count) (s : State) : (waitArm n s).en = s.en := rfl
@[simp] theorem waitArm_nib (n : Count) (s : State) : (waitArm n s).nib = s.nib := rfl
@[simp] theorem waitArm_pout (n : Count) (s : State) : (waitArm n s).pout = s.pout := rfl
@[simp] theorem waitArm_trun (n : Count) (s : State) : (waitArm n s).trun = true := rfl
@[simp] theorem waitArm_tper (n : Count) (s : State) : (waitArm n s).tper = s.ticksPerMs := rfl
@[simp] theorem waitArm_tcnt (n : Count) (s : State) : (waitArm n s).tcnt = 0 := rfl
@[simp] theorem waitArm_tifg (n : Count) (s : State) : (waitArm n s).tifg = false := rfl
@[simp] theorem waitArm_mscnt (n : Count) (s : State) : (waitArm n s).mscnt = n := rfl
@[simp] theorem waitArm_ph (n : Count) (s : State) : (waitArm n s).ph = s.ph := rfl
@[simp] theorem waitArm_opl (n : Count) (s : State) : (waitArm n s).opl = s.opl := rfl
@[simp] theorem waitArm_argl (n : Count) (s : State) : (waitArm n s).argl = s.argl := rfl
@[simp] theorem waitArm_step (n : Count) (s : State) : (waitArm n s).step = s.step := rfl
@[simp] theorem waitArm_sub (n : Count) (s : State) : (waitArm n s).sub = .run := rfl
@[simp] theorem waitArm_trace (n : Count) (s : State) : (waitArm n s).trace = s.trace ++ [.arm] := rfl
@[simp] theorem waitArm_ticksPerMs (n : Count) (s : State) : (waitArm n s).ticksPerMs = s.ticksPerMs := rfl
@[simp] theorem waitArm_ioEnable (n : Count) (s : State) : (waitArm n s).ioEnable = s.ioEnable := rfl
@[simp] theorem waitArm_inputs (n : Count) (s : State) : (waitArm n s).inputs = s.inputs := rfl
@[simp] theorem waitArm_edges (n : Count) (s : State) : (waitArm n s).edges = s.edges := rfl

@[simp] theorem waitStop_rs (s : State) : (waitStop s).rs = s.rs := rfl
@[simp] theorem waitStop_en (s : State) : (waitStop s).en = s.en := rfl
@[simp] theorem waitStop_nib (s : State) : (waitStop s).nib = s.nib := rfl
@[simp] theorem waitStop_pout (s : State) : (waitStop s).pout = s.pout := rfl
@[simp] theorem waitStop_trun (s : State) : (waitStop s).trun = false := rfl
@[simp] theorem waitStop_tper (s : State) : (waitStop s).tper = s.tper := rfl
@[simp] theorem waitStop_tcnt (s : State) : (waitStop s).tcnt = s.tcnt := rfl
@[simp] theorem waitStop_tifg (s : State) : (waitStop s).tifg = s.tifg := rfl
@[simp] theorem waitStop_mscnt (s : State) : (waitStop s).mscnt = s.mscnt := rfl
@[simp] theorem waitStop_ph (s : State) : (waitStop s).ph = s.ph := rfl
@[simp] theorem waitStop_opl (s : State) : (waitStop s).opl = s.opl := rfl
@[simp] theorem waitStop_argl (s : State) : (waitStop s).argl = s.argl := rfl
@[simp] theorem waitStop_step (s : State) : (waitStop s).step = s.step := rfl
@[simp] theorem waitStop_sub (s : State) : (waitStop s).sub = .arm := rfl
@[simp] theorem waitStop_trace (s : State) : (waitStop s).trace = s.trace ++ [.disarm] := rfl
@[simp] theorem waitStop_ticksPerMs (s : State) : (waitStop s).ticksPerMs = s.ticksPerMs := rfl
@[simp] theorem waitStop_ioEnable (s : State) : (waitStop s).ioEnable = s.ioEnable := rfl
@[simp] theorem waitStop_inputs (s : State) : (waitStop s).inputs = s.inputs := rfl
@[simp] theorem waitStop_edges (s : State) : (waitStop s).edges = s.edges := rfl

@[simp] theorem completeStep_rs (n : Nat) (s : State) : (completeStep n s).rs = s.rs := rfl
@[simp] theorem completeStep_en (n : Nat) (s : State) : (completeStep n s).en = s.en := rfl
@[simp] theorem completeStep_nib (n : Nat) (s : State) : (completeStep n s).nib = s.nib := rfl
@[simp] theorem completeStep_pout (n : Nat) (s : State) : (completeStep n s).pout = s.pout := rfl
@[simp] theorem completeStep_trun (n : Nat) (s : State) : (completeStep n s).trun = s.trun := rfl
@[simp] theorem completeStep_tper (n : Nat) (s : State) : (completeStep n s).tper = s.tper := rfl
@[simp] theorem completeStep_tcnt (n : Nat) (s : State) : (completeStep n s).tcnt = s.tcnt := rfl
@[simp] theorem completeStep_tifg (n : Nat) (s : State) : (completeStep n s).tifg = s.tifg := rfl
@[simp] theorem completeStep_mscnt (n : Nat) (s : State) : (completeStep n s).mscnt = s.mscnt := rfl
@[simp] theorem completeStep_ph (n : Nat) (s : State) : (completeStep n s).ph = if s.step.toNat + 1 = n then .idle else s.ph := rfl
@[simp] theorem completeStep_opl (n : Nat) (s : State) : (completeStep n s).opl = s.opl := rfl
@[simp] theorem completeStep_argl (n : Nat) (s : State) : (completeStep n s).argl = s.argl := rfl
@[simp] theorem completeStep_step (n : Nat) (s : State) : (completeStep n s).step = s.step + 1 := rfl
@[simp] theorem completeStep_sub (n : Nat) (s : State) : (completeStep n s).sub = s.sub := rfl
@[simp] theorem completeStep_trace (n : Nat) (s : State) : (completeStep n s).trace = s.trace := rfl
@[simp] theorem completeStep_ticksPerMs (n : Nat) (s : State) : (completeStep n s).ticksPerMs = s.ticksPerMs := rfl
@[simp] theorem completeStep_ioEnable (n : Nat) (s : State) : (completeStep n s).ioEnable = s.ioEnable := rfl
@[simp] theorem completeStep_inputs (n : Nat) (s : State) : (completeStep n s).inputs = s.inputs := rfl
@[simp] theorem completeStep_edges (n : Nat) (s : State) : (completeStep n s).edges = s.edges := rfl

@[simp] theorem accept_rs (op : Opcode) (arg : Arg) (s : State) : (accept op arg s).rs = s.rs := rfl
@[simp] theorem accept_en (op : Opcode) (arg : Arg) (s : State) : (accept op arg s).en = s.en := rfl
@[simp] theorem accept_nib (op : Opcode) (arg : Arg) (s : State) : (accept op arg s).nib = s.nib := rfl
@[simp] theorem accept_pout (op : Opcode) (arg : Arg) (s : State) : (accept op arg s).pout = s.pout := rfl
@[simp] theorem accept_trun (op : Opcode) (arg : Arg) (s : State) : (accept op arg s).trun = s.trun := rfl
@[simp] theorem accept_tper (op : Opcode) (arg : Arg) (s : State) : (accept op arg s).tper = s.tper := rfl
@[simp] theorem accept_tcnt (op : Opcode) (arg : Arg) (s : State) : (accept op arg s).tcnt = s.tcnt := rfl
@[simp] theorem accept_tifg (op : Opcode) (arg : Arg) (s : State) : (accept op arg s).tifg = s.tifg := rfl
@[simp] theorem accept_mscnt (op : Opcode) (arg : Arg) (s : State) : (accept op arg s).mscnt = s.mscnt := rfl
@[simp] theorem accept_ph (op : Opcode) (arg : Arg) (s : State) : (accept op arg s).ph = .exec := rfl
@[simp] theorem accept_opl (op : Opcode) (arg : Arg) (s : State) : (accept op arg s).opl = op := rfl
@[simp] theorem accept_argl (op : Opcode) (arg : Arg) (s : State) : (accept op arg s).argl = arg := rfl
@[simp] theorem accept_step (op : Opcode) (arg : Arg) (s : State) : (accept op arg s).step = 0 := rfl
@[simp] theorem accept_sub (op : Opcode) (arg : Arg) (s : State) : (accept op arg s).sub = .arm := rfl
@[simp] theorem accept_trace (op : Opcode) (arg : Arg) (s : State) : (accept op arg s).trace = s.trace := rfl
@[simp] theorem accept_ticksPerMs (op : Opcode) (arg : Arg) (s : State) : (accept op arg s).ticksPerMs = s.ticksPerMs := rfl
@[simp] theorem accept_ioEnable (op : Opcode) (arg : Arg) (s : State) : (accept op arg s).ioEnable = s.ioEnable := rfl
@[simp] theorem accept_inputs (op : Opcode) (arg : Arg) (s : State) : (accept op arg s).inputs = s.inputs := rfl
@[simp] theorem accept_edges (op : Opcode) (arg : Arg) (s : State) : (accept op arg s).edges = s.edges := rfl

@[simp] theorem environment_rs (inp : Inputs) (s : State) : (environment inp s).rs = s.rs := rfl
@[simp] theorem environment_en (inp : Inputs) (s : State) : (environment inp s).en = s.en := rfl
@[simp] theorem environment_nib (inp : Inputs) (s : State) : (environment inp s).nib = s.nib := rfl
@[simp] theorem environment_pout (inp : Inputs) (s : State) : (environment inp s).pout = s.pout.environment inp := rfl
@[simp] theorem environment_trun (inp : Inputs) (s : State) : (environment inp s).trun = s.trun := rfl
@[simp] theorem environment_tper (inp : Inputs) (s : State) : (environment inp s).tper = s.tper := rfl
@[simp] theorem environment_tcnt (inp : Inputs) (s : State) : (environment inp s).tcnt = s.tcnt := rfl
@[simp] theorem environment_tifg (inp : Inputs) (s : State) : (environment inp s).tifg = s.tifg := rfl
@[simp] theorem environment_mscnt (inp : Inputs) (s : State) : (environment inp s).mscnt = s.mscnt := rfl
@[simp] theorem environment_ph (inp : Inputs) (s : State) : (environment inp s).ph = s.ph := rfl
@[simp] theorem environment_opl (inp : Inputs) (s : State) : (environment inp s).opl = s.opl := rfl
@[simp] theorem environment_argl (inp : Inputs) (s : State) : (environment inp s).argl = s.argl := rfl
@[simp] theorem environment_step (inp : Inputs) (s : State) : (environment inp s).step = s.step := rfl
@[simp] theorem environment_sub (inp : Inputs) (s : State) : (environment inp s).sub = s.sub := rfl
@[simp] theorem environment_trace (inp : Inputs) (s : State) : (environment inp s).trace = s.trace := rfl
@[simp] theorem environment_ticksPerMs (inp : Inputs) (s : State) : (environment inp s).ticksPerMs = s.ticksPerMs := rfl
@[simp] theorem environment_ioEnable (inp : Inputs) (s : State) : (environment inp s).ioEnable = inp.ioEnable := rfl
@[simp] theorem environment_inputs (inp : Inputs) (s : State) : (environment inp s).inputs = s.inputs.tail := rfl
@[simp] theorem environment_edges (inp : Inputs) (s : State) : (environment inp s).edges = s.edges + 1 := rfl

@[simp] theorem resetEdge_rs (s : State) : (resetEdge s).rs = 0 := rfl
@[simp] theorem resetEdge_en (s : State) : (resetEdge s).en = 0 := rfl
@[simp] theorem resetEdge_nib (s : State) : (resetEdge s).nib = 0 := rfl
@[simp] theorem resetEdge_pout (s : State) : (resetEdge s).pout = s.pout := rfl
@[simp] theorem resetEdge_trun (s : State) : (resetEdge s).trun = false := rfl
@[simp] theorem resetEdge_tper (s : State) : (resetEdge s).tper = 0 := rfl
@[simp] theorem resetEdge_tcnt (s : State) : (resetEdge s).tcnt = 0 := rfl
@[simp] theorem resetEdge_tifg (s : State) : (resetEdge s).tifg = false := rfl
@[simp] theorem resetEdge_mscnt (s : State) : (resetEdge s).mscnt = 0 := rfl
@[simp] theorem resetEdge_ph (s : State) : (resetEdge s).ph = .idle := rfl
@[simp] theorem resetEdge_opl (s : State) : (resetEdge s).opl = 0 := rfl
@[simp] theorem resetEdge_argl (s : State) : (resetEdge s).argl = 0 := rfl
@[simp] theorem resetEdge_step (s : State) : (resetEdge s).step = 0 := rfl
@[simp] theorem resetEdge_sub (s : State) : (resetEdge s).sub = .arm := rfl
@[simp] theorem resetEdge_trace (s : State) : (resetEdge s).trace = [] := rfl
@[simp] theorem resetEdge_ticksPerMs (s : State) : (resetEdge s).ticksPerMs = s.ticksPerMs := rfl
@[simp] theorem resetEdge_ioEnable (s : State) : (resetEdge s).ioEnable = s.ioEnable := rfl
@[simp] theorem resetEdge_inputs (s : State) : (resetEdge s).inputs = s.inputs := rfl
@[simp] theorem resetEdge_edges (s : State) : (resetEdge s).edges = s.edges := rfl

@[simp] theorem waitRun_rs (s : State) : (waitRun s).rs = s.rs := by
  unfold waitRun; split_ifs <;> rfl
@[simp] theorem waitRun_en (s : State) : (waitRun s).en = s.en := by
  unfold waitRun; split_ifs <;> rfl
@[simp] theorem waitRun_nib (s : State) : (waitRun s).nib = s.nib := by
  unfold waitRun; split_ifs <;> rfl
@[simp] theorem waitRun_pout (s : State) : (waitRun s).pout = s.pout := by
  unfold waitRun; split_ifs <;> rfl
@[simp] theorem waitRun_trun (s : State) : (waitRun s).trun = s.trun := by
  unfold waitRun; split_ifs <;> rfl
@[simp] theorem waitRun_tper (s : State) : (waitRun s).tper = s.tper := by
  unfold waitRun; split_ifs <;> rfl
@[simp] theorem waitRun_tcnt (s : State) : (waitRun s).tcnt = s.tcnt := by
  unfold waitRun; split_ifs <;> rfl
@[simp] theorem waitRun_ph (s : State) : (waitRun s).ph = s.ph := by
  unfold waitRun; split_ifs <;> rfl
@[simp] theorem waitRun_opl (s : State) : (waitRun s).opl = s.opl := by
  unfold waitRun; split_ifs <;> rfl
@[simp] theorem waitRun_argl (s : State) : (waitRun s).argl = s.argl := by
  unfold waitRun; split_ifs <;> rfl
@[simp] theorem waitRun_step (s : State) : (waitRun s).step = s.step := by
  unfold waitRun; split_ifs <;> rfl
@[simp] theorem waitRun_ticksPerMs (s : State) : (waitRun s).ticksPerMs = s.ticksPerMs := by
  unfold waitRun; split_ifs <;> rfl
@[simp] theorem waitRun_ioEnable (s : State) : (waitRun s).ioEnable = s.ioEnable := by
  unfold waitRun; split_ifs <;> rfl
@[simp] theorem waitRun_inputs (s : State) : (waitRun s).inputs = s.inputs := by
  unfold waitRun; split_ifs <;> rfl
@[simp] theorem waitRun_edges (s : State) : (waitRun s).edges = s.edges := by
  unfold waitRun; split_ifs <;> rfl

@[simp] theorem timerEdge_rs (pre post : State) : (timerEdge pre post).rs = post.rs := by
  unfold timerEdge; split_ifs <;> rfl
@[simp] theorem timerEdge_en (pre post : State) : (timerEdge pre post).en = post.en := by
  unfold timerEdge; split_ifs <;> rfl
@[simp] theorem timerEdge_nib (pre post : State) : (timerEdge pre post).nib = post.nib := by
  unfold timerEdge; split_ifs <;> rfl
@[simp] theorem timerEdge_pout (pre post : State) : (timerEdge pre post).pout = post.pout := by
  unfold timerEdge; split_ifs <;> rfl
@[simp] theorem timerEdge_trun (pre post : State) : (timerEdge pre post).trun = post.trun := by
  unfold timerEdge; split_ifs <;> rfl
@[simp] theorem timerEdge_tper (pre post : State) : (timerEdge pre post).tper = post.tper := by
  unfold timerEdge; split_ifs <;> rfl
@[simp] theorem timerEdge_mscnt (pre post : State) : (timerEdge pre post).mscnt = post.mscnt := by
  unfold timerEdge; split_ifs <;> rfl
@[simp] theorem timerEdge_ph (pre post : State) : (timerEdge pre post).ph = post.ph := by
  unfold timerEdge; split_ifs <;> rfl
@[simp] theorem timerEdge_opl (pre post : State) : (timerEdge pre post).opl = post.opl := by
  unfold timerEdge; split_ifs <;> rfl
@[simp] theorem timerEdge_argl (pre post : State) : (timerEdge pre post).argl = post.argl := by
  unfold timerEdge; split_ifs <;> rfl
@[simp] theorem timerEdge_step (pre post : State) : (timerEdge pre post).step = post.step := by
  unfold timerEdge; split_ifs <;> rfl
@[simp] theorem timerEdge_sub (pre post : State) : (timerEdge pre post).sub = post.sub := by
  unfold timerEdge; split_ifs <;> rfl
@[simp] theorem timerEdge_trace (pre post : State) : (timerEdge pre post).trace = post.trace := by
  unfold timerEdge; split_ifs <;> rfl
@[simp] theorem timerEdge_ticksPerMs (pre post : State) : (timerEdge pre post).ticksPerMs = post.ticksPerMs := by
  unfold timerEdge; split_ifs <;> rfl
@[simp] theorem timerEdge_ioEnable (pre post : State) : (timerEdge pre post).ioEnable = post.ioEnable := by
  unfold timerEdge; split_ifs <;> rfl
@[simp] theorem timerEdge_inputs (pre post : State) : (timerEdge pre post).inputs = post.inputs := by
  unfold timerEdge; split_ifs <;> rfl
@[simp] theorem timerEdge_edges (pre post : State) : (timerEdge pre post).edges = post.edges := by
  unfold timerEdge; split_ifs <;> rfl

end Sys2Proof.Machine
end

