-- ==== Sys2Proof/Laws/Micro.lean ====
section
/-! SUPPORT. Everything a running command, a clock edge and a run can do, said once. -/

namespace Sys2Proof.Machine

/-- Every meaning is its command's micro-step list run at `STEP`. -/
theorem exec_eq_runMicro (i : Instr) (s : State) : exec i s = runMicro (microSteps i) s := by
  cases i <;> rfl

/-- What one edge of a running command can be: a body, or one of the three sub-steps of a wait. -/
theorem runMicro_next {ms : List Micro} {s t : State} (h : runMicro ms s = .next t) :
    (∃ ps, ms[s.step.toNat]? = some (.body ps) ∧ t = completeStep ms.length (runBody ps s)) ∨
    (∃ n, ms[s.step.toNat]? = some (.wait n) ∧
      ((s.sub = .arm ∧ t = waitArm n s) ∨ (s.sub = .run ∧ t = waitRun s) ∨
       (s.sub = .stop ∧ t = completeStep ms.length (waitStop s)))) := by
  unfold runMicro at h
  split at h
  · exact absurd h (by simp)
  · rename_i ps hm
    exact .inl ⟨ps, hm, (Host.Outcome.next.inj h).symm⟩
  · rename_i n hm
    refine .inr ⟨n, hm, ?_⟩
    split at h <;> rename_i hs
    · exact .inl ⟨hs, (Host.Outcome.next.inj h).symm⟩
    · exact .inr (.inl ⟨hs, (Host.Outcome.next.inj h).symm⟩)
    · exact .inr (.inr ⟨hs, (Host.Outcome.next.inj h).symm⟩)

/-- What one poll of `RUN` can be (R91). -/
theorem waitRun_cases (s : State) :
    (s.mscnt = 0 ∧ waitRun s = { s with sub := .stop }) ∨
    (s.mscnt ≠ 0 ∧ s.tifg = true ∧
      waitRun s = { s with tifg := false, mscnt := s.mscnt - 1, trace := s.trace ++ [.tick] }) ∨
    (s.mscnt ≠ 0 ∧ s.tifg = false ∧ waitRun s = s) := by
  unfold waitRun
  split_ifs with hm hf
  · exact .inl ⟨hm, rfl⟩
  · exact .inr (.inl ⟨hm, hf, rfl⟩)
  · exact .inr (.inr ⟨hm, by simpa using hf, rfl⟩)

/-- What the timer can do at one edge (R147). -/
theorem timerEdge_cases (pre post : State) :
    (armedBetween pre post = true ∧ timerEdge pre post = post) ∨
    (armedBetween pre post = false ∧ pre.trun = false ∧ timerEdge pre post = post) ∨
    (armedBetween pre post = false ∧ pre.trun = true ∧ pre.tcnt = pre.tper - 1 ∧
      timerEdge pre post = { post with tcnt := 0, tifg := true }) ∨
    (armedBetween pre post = false ∧ pre.trun = true ∧ pre.tcnt ≠ pre.tper - 1 ∧
      timerEdge pre post = { post with tcnt := pre.tcnt + 1 }) := by
  unfold timerEdge
  cases ha : armedBetween pre post <;> cases ht : pre.trun
  · exact .inr (.inl ⟨rfl, rfl, by simp⟩)
  · by_cases hc : pre.tcnt = pre.tper - 1
    · exact .inr (.inr (.inl ⟨rfl, rfl, hc, by rw [if_neg (by simp), if_pos rfl, if_pos hc]⟩))
    · exact .inr (.inr (.inr ⟨rfl, rfl, hc, by rw [if_neg (by simp), if_pos rfl, if_neg hc]⟩))
  · exact .inl ⟨rfl, by simp⟩
  · exact .inl ⟨rfl, by simp⟩

/-- A running command is never refused. -/
theorem runMicro_not_refused (ms : List Micro) (s : State) (r : Refusal) : runMicro ms s ≠ .refused r := by
  unfold runMicro
  split
  · simp
  · simp
  · split <;> simp

/-- `onNext` answers a next state exactly from a next state. -/
theorem onNext_next {o : Host.Outcome State Fault Refusal} {f : State → State} {t : State}
    (h : onNext o f = .next t) : ∃ u, o = .next u ∧ t = f u := by
  cases o with
  | next u => exact ⟨u, rfl, (Host.Outcome.next.inj h).symm⟩
  | fault r => exact absurd h (by simp [onNext])
  | refused r => exact absurd h (by simp [onNext])

/-- What one clock edge can be: a reset, an acceptance, an idle cycle, or an edge of the running command. -/
theorem step_next {s t : State} (h : step s = .next t) :
    (s.nextInputs.rst = true ∧ t = resetEdge (environment s.nextInputs s)) ∨
    (s.nextInputs.rst = false ∧ s.ph = .idle ∧ s.nextInputs.cmdValid = true ∧
      (∃ i, decode (commandWord s.nextInputs.cmdOp s.nextInputs.cmdArg) = .ok i) ∧
      t = timerEdge (environment s.nextInputs s)
        (accept s.nextInputs.cmdOp s.nextInputs.cmdArg (environment s.nextInputs s))) ∨
    (s.nextInputs.rst = false ∧ s.ph = .idle ∧ s.nextInputs.cmdValid = false ∧
      t = timerEdge (environment s.nextInputs s) (environment s.nextInputs s)) ∨
    (s.nextInputs.rst = false ∧ s.ph = .exec ∧ ∃ i u, decode s.latched = .ok i ∧
      exec i (environment s.nextInputs s) = .next u ∧ t = timerEdge (environment s.nextInputs s) u) := by
  unfold step at h
  simp only at h
  cases hr : s.nextInputs.rst with
  | true =>
    rw [hr] at h
    exact .inl ⟨rfl, (Host.Outcome.next.inj h).symm⟩
  | false =>
    rw [hr] at h
    cases hp : s.ph with
    | idle =>
      simp only [hp, Bool.false_eq_true, if_false] at h
      obtain ⟨u, hu, ht⟩ := onNext_next h
      unfold idleEdge at hu
      cases hv : s.nextInputs.cmdValid with
      | true =>
        simp only [hv, if_true] at hu
        split at hu
        · rename_i i hd
          exact .inr (.inl ⟨rfl, rfl, rfl, ⟨i, hd⟩, by rw [ht, Host.Outcome.next.inj hu]⟩)
        · exact absurd hu (by simp)
      | false =>
        simp only [hv, Bool.false_eq_true, if_false] at hu
        exact .inr (.inr (.inl ⟨rfl, rfl, rfl, by rw [ht, Host.Outcome.next.inj hu]⟩))
    | exec =>
      simp only [hp, Bool.false_eq_true, if_false] at h
      split at h
      · rename_i i hd
        obtain ⟨u, hu, ht⟩ := onNext_next h
        exact .inr (.inr (.inr ⟨rfl, rfl, i, u, hd, hu, ht⟩))
      · exact absurd h (by simp)

/-- A running command's edge, forwards: the meaning of the latched command, then the timer. -/
theorem step_exec {s : State} {i : Instr} (hr : s.nextInputs.rst = false) (hp : s.ph = .exec)
    (hd : decode s.latched = .ok i) :
    step s = onNext (exec i (environment s.nextInputs s)) (timerEdge (environment s.nextInputs s)) := by
  unfold step
  simp [hr, hp, hd]

/-- A run of `k + 1` steps is a step and then a run of `k`. -/
theorem run_succ_of_step {k : Nat} {s t : State} (h : step s = .next t) :
    Host.Core.run Sys2Proof.core (k + 1) s = Host.Core.run Sys2Proof.core k t := by
  simp only [Host.Core.run]
  rw [show Sys2Proof.core.step s = .next t from h]

/-- A run of `j + k` steps is a run of `j` and then one of `k`. -/
theorem run_add {j k : Nat} {s t : State} (h : Host.Core.run Sys2Proof.core j s = .next t) :
    Host.Core.run Sys2Proof.core (j + k) s = Host.Core.run Sys2Proof.core k t := by
  induction j generalizing s with
  | zero =>
    rw [Nat.zero_add]
    exact congrArg _ (Host.Outcome.next.inj h)
  | succ j ih =>
    rw [show j + 1 + k = (j + k) + 1 by omega]
    simp only [Host.Core.run] at h ⊢
    cases hs : Sys2Proof.core.step s with
    | next u => rw [hs] at h; exact ih h
    | fault r => rw [hs] at h; exact absurd h (by simp)
    | refused r => rw [hs] at h; exact absurd h (by simp)

/-- A statement of a body leaves everything but the control state, the port and the trace. -/
theorem runPrim_frame (s : State) (p : Prim) :
    runPrim s p = { s with
      rs := (runPrim s p).rs, en := (runPrim s p).en, nib := (runPrim s p).nib,
      pout := (runPrim s p).pout, trace := (runPrim s p).trace } := by
  cases p <;> rfl

/-- So does a whole body. -/
theorem runBody_frame (ps : List Prim) (s : State) :
    runBody ps s = { s with
      rs := (runBody ps s).rs, en := (runBody ps s).en, nib := (runBody ps s).nib,
      pout := (runBody ps s).pout, trace := (runBody ps s).trace } := by
  induction ps generalizing s with
  | nil => rfl
  | cons p ps ih =>
    have h := ih (runPrim s p)
    rw [show runBody (p :: ps) s = runBody ps (runPrim s p) from rfl]
    rw [h, runPrim_frame s p]

end Sys2Proof.Machine
end

