-- ==== Sys2Proof/Laws/PerInstr.lean ====
section
/-! SUPPORT. Statements about every command as syntax, one lemma per constructor. -/

namespace Sys2Proof.Laws.OpcodeField

/-- The word of a command carries the command's opcode in bits 19:16, and that opcode is one of the seven (R70, R72). -/
def Statement (i : Instr) : Prop :=
  (encode i).op = i.opcode ∧ CmdWord.wf (encode i) = true ∧ i.wf = true

/-- A command with an opcode from 1 to 7 has the statement. -/
theorem of_opcode (i : Instr) (h : 1 ≤ i.opcode.toNat ∧ i.opcode.toNat ≤ 7) (hw : i.wf = true) : Statement i := by
  have ho : (encode i).op = i.opcode := CmdWord.op_commandWord _ _
  refine ⟨ho, ?_, hw⟩
  have ho' : (encode i).extractLsb' 16 4 = i.opcode := ho
  simp [CmdWord.wf, ho', h.1, h.2]

theorem setrs (v : BitVec 1) : Statement (.setrs v) := of_opcode _ (by simp [Instr.opcode]) rfl

theorem seten (v : BitVec 1) : Statement (.seten v) := of_opcode _ (by simp [Instr.opcode]) rfl

theorem setnib (n : Nibble) : Statement (.setnib n) := of_opcode _ (by simp [Instr.opcode]) rfl

theorem flush : Statement .flush := of_opcode _ (by simp [Instr.opcode]) rfl

theorem delay (count : Count) : Statement (.delay count) := of_opcode _ (by simp [Instr.opcode]) rfl

theorem sendi (b : Byte) : Statement (.sendi b) := of_opcode _ (by simp [Instr.opcode]) rfl

theorem sendd (b : Byte) : Statement (.sendd b) := of_opcode _ (by simp [Instr.opcode]) rfl

end Sys2Proof.Laws.OpcodeField
end

