-- ==== Sys2Proof/Laws/Port.lean ====
section
/-! SUPPORT. The port register bit by bit: what the block's masked write and the environment's write do. -/

namespace Sys2Proof.Machine

@[simp] theorem Port.width_writeOwn (p : Port) (v : Pins) : (p.writeOwn v).width = p.width := rfl

@[simp] theorem Port.width_writeForeign (p : Port) (f : Nat) : (p.writeForeign f).width = p.width := rfl

@[simp] theorem Port.width_environment (p : Port) (inp : Inputs) : (p.environment inp).width = p.width := by
  unfold Port.environment; cases inp.foreign <;> rfl

/-- The block's mask has exactly the bits below 6 of the register. -/
theorem Port.getLsbD_ownMask (p : Port) (k : Nat) :
    p.ownMask.getLsbD k = (decide (k < p.width) && decide (k < 6)) := by
  rw [Port.ownMask, BitVec.getLsbD_setWidth, BitVec.getLsbD_allOnes]

/-- The masked write (R104): bits 5:0 take the value, the others stay. -/
theorem Port.bit_writeOwn (p : Port) (v : Pins) (k : Nat) :
    (p.writeOwn v).bit k = if k < 6 then (decide (k < p.width) && v.getLsbD k) else p.bit k := by
  simp only [Port.bit, Port.writeOwn, BitVec.getLsbD_or, BitVec.getLsbD_and, BitVec.getLsbD_not,
    Port.getLsbD_ownMask, BitVec.getLsbD_setWidth]
  by_cases h : k < p.width
  · by_cases h6 : k < 6
    · simp [h, h6]
    · simp [h, h6, BitVec.getLsbD_of_ge v k (by omega)]
  · simp [h, BitVec.getLsbD_of_ge p.bits k (by omega)]

/-- The environment's write (R59): bits 5:0 stay, the others take the value. -/
theorem Port.bit_writeForeign (p : Port) (f k : Nat) :
    (p.writeForeign f).bit k =
      if k < 6 then p.bit k else (decide (k < p.width) && f.testBit (k - 6)) := by
  simp only [Port.bit, Port.writeForeign, BitVec.getLsbD_or, BitVec.getLsbD_and, Port.getLsbD_ownMask,
    BitVec.getLsbD_shiftLeft, BitVec.getLsbD_ofNat]
  by_cases h : k < p.width
  · by_cases h6 : k < 6
    · simp [h, h6]
    · simp [h, h6, show k - 6 < p.width by omega]
  · simp [h, BitVec.getLsbD_of_ge p.bits k (by omega)]

/-- `POUT[5:0]` is the six low bits. -/
theorem Port.getLsbD_own (p : Port) (k : Nat) : p.own.getLsbD k = (decide (k < 6) && p.bit k) := by
  simp [Port.own, Port.bit]

/-- The block reads back what it wrote, on a port of at least six bits. -/
theorem Port.own_writeOwn (p : Port) (v : Pins) (h : 6 ≤ p.width) : (p.writeOwn v).own = v := by
  apply BitVec.eq_of_getLsbD_eq
  intro k hk
  rw [Port.getLsbD_own, Port.bit_writeOwn]
  simp [hk, show k < p.width by omega]

/-- The environment never writes `POUT[5:0]` (R59). -/
@[simp] theorem Port.own_writeForeign (p : Port) (f : Nat) : (p.writeForeign f).own = p.own := by
  apply BitVec.eq_of_getLsbD_eq
  intro k hk
  rw [Port.getLsbD_own, Port.getLsbD_own, Port.bit_writeForeign]
  simp [hk]

@[simp] theorem Port.own_environment (p : Port) (inp : Inputs) : (p.environment inp).own = p.own := by
  unfold Port.environment; cases inp.foreign <;> simp

/-- A foreign bit after the environment's turn. -/
theorem Port.bit_environment (p : Port) (inp : Inputs) (k : Nat) (hk : 6 ≤ k) (hw : k < p.width) :
    (p.environment inp).bit k = match inp.foreign with
      | none => p.bit k
      | some f => f.testBit (k - 6) := by
  unfold Port.environment
  cases inp.foreign with
  | none => rfl
  | some f => simp [Port.bit_writeForeign, hw, show ¬ k < 6 by omega]

end Sys2Proof.Machine
end

