-- ==== Sys2Proof/Tests/Slice0.lean ====
section
/-! SUPPORT. The model's own tests. Expected values are those of spec/95_test_vectors.md, or written out by hand from the rule
named. Each machine test is one clock edge. -/

namespace Sys2Proof.Tests

open Sys2Proof.Machine

/-! ## Well-formedness: each check with a term it refuses -/

theorem test_every_operand_is_legal : (Instr.delay 0xFFFF).wf = true := by decide

theorem test_reserved_word_is_ill_formed : CmdWord.wf 0x80000 = false ∧ CmdWord.wf 0x00001 = false := by decide

theorem test_x_bits_are_not_canonical : CmdWord.canonical 0x30013 = false ∧ CmdWord.canonical 0x30003 = true := by
  decide

theorem test_cursor_32_is_ill_formed : (Pseudo.setCursor 32).wf = false ∧ (Pseudo.setCursor 31).wf = true := by decide

/-- Parameters with the values the examples of 95_test_vectors.md P1 use. -/
def params : HostParams := ⟨5, 1, 1, 0x02, 0x06, 0x0F, 0x01, [0x41]⟩

theorem test_params_well_formed : params.wf = true := by decide

theorem test_first_wait_too_short : HostParams.wf { params with initW1 := 4 } = false := by decide

theorem test_second_wait_zero : HostParams.wf { params with initW2 := 0, initW3 := 0 } = false := by decide

theorem test_third_wait_zero : HostParams.wf { params with initW3 := 0 } = false := by decide

theorem test_waits_increase : HostParams.wf { params with initW2 := 6 } = false ∧
    HostParams.wf { params with initW3 := 2 } = false := by decide

theorem test_one_tick_per_ms_is_ill_formed : ticksPerMsWf 1 = false ∧ ticksPerMsWf 2 = true := by decide

theorem test_port_of_five_bits_is_ill_formed : portWidthWf 5 = false ∧ portWidthWf 6 = true := by decide

/-! ## Decoding: words written out bit by bit from the patterns of R72 -/

theorem test_decode_setrs : decode 0b0001_0000000000000001 = .ok (.setrs 1) := by decide

theorem test_decode_seten : decode 0b0010_1000000000000001 = .ok (.seten 1) := by decide

theorem test_decode_setnib : decode 0b0011_0000000000011011 = .ok (.setnib 0b1011) := by decide

theorem test_decode_flush : decode 0b0100_1010101111001101 = .ok .flush := by decide

theorem test_decode_delay : decode 0b0101_0000000000010100 = .ok (.delay 20) := by decide

theorem test_decode_sendi : decode 0b0110_0000000010000000 = .ok (.sendi 0x80) := by decide

theorem test_decode_sendd : decode 0b0111_1111111101000001 = .ok (.sendd 0x41) := by decide

theorem test_decode_reserved : decode 0x00000 = .error (.reservedOpcode 0) ∧
    decode 0xF0000 = .error (.reservedOpcode 15) := by decide

/-- R76: "`SENDI 0x80` assembles to `CW = 0x60080`; `DELAY 20` to `0x50014`". -/
theorem test_encode_examples : encode (.sendi 0x80) = 0x60080 ∧ encode (.delay 20) = 0x50014 := by decide

theorem test_table_word : decodeTableWord 24 0x70041 = some (.sendd 0x41) ∧ decodeTableWord 24 0x80000 = none ∧
    decodeTableWord 24 0x110000 = none := by decide

/-- R76, with a comment and a character operand. -/
theorem test_assemble : assemble
    [ ['S', 'E', 'N', 'D', 'I', ' ', '0', 'x', '8', '0', ' ', ';', 'a'], [], ['D', 'E', 'L', 'A', 'Y', ' ', '2', '0'],
      ['S', 'E', 'N', 'D', 'D', ' ', '\'', 'A', '\''], ['F', 'L', 'U', 'S', 'H'] ] =
    .ok [0x60080, 0x50014, 0x70041, 0x40000] := by decide

/-! ## One clock edge -/

/-- A reset machine with `T = 3`, an 8-bit `POUT` and `io_enable = 1`. -/
def idle : State := { State.reset with ticksPerMs := 3, pout := ⟨8, 0xD6⟩, ioEnable := true }

/-- `idle` with the host doing `ins` at the coming edges. -/
def fed (ins : List Inputs) : State := { idle with inputs := ins }

/-- `idle` running the word `w` at micro-step `k`. -/
def running (w : CmdWord) (k : BitVec 4) : State := { accept w.op w.arg idle with step := k }

/-- `running` inside a wait whose timer runs. -/
def waiting (w : CmdWord) (k : BitVec 4) (sub : SubStep) (ms cnt : Count) (flag : Bool) : State :=
  { running w k with sub := sub, mscnt := ms, tcnt := cnt, tifg := flag, tper := 3, trun := true }

/-- A field of the next state. -/
def after {α : Type} (f : State → α) (s : State) : Option α := (nextOf (step s)).map f

/-- B2.1. -/
theorem test_setrs : after (fun t => (t.rs, t.pout.own, t.ph, t.trace)) (running 0x10001 0) =
    some (1, 0x16, .idle, []) := by decide

/-- B2.3. -/
theorem test_seten : after (fun t => (t.en, t.pout.own, t.ph)) (running 0x20001 0) = some (1, 0x16, .idle) := by decide

/-- B2.8: `0x30013` sets `NIB = 0x3`. -/
theorem test_setnib : after (fun t => (t.nib, t.rs, t.en)) (running 0x30013 0) = some (3, 0, 0) := by decide

/-- A1, B2.7: the source's own example, `0xD6` to `0xE9`. -/
theorem test_flush : after (fun t => (t.pout.bits.toNat, t.trace)) { running 0x40000 0 with rs := 1, nib := 0xA } =
    some (0xE9, [.out 0x29]) := by decide

/-- B3.2 cycle 1. -/
theorem test_delay_arm : after (fun t => (t.trun, t.tper, t.mscnt, t.trace)) (running 0x50002 0) =
    some (true, 3, 2, [.arm]) := by decide

/-- B3.2 cycle 10: `STOP` and an expiry at one edge. -/
theorem test_delay_stop : after (fun t => (t.trun, t.tcnt, t.tifg, t.ph, t.trace)) (waiting 0x50002 0 .stop 0 2 false) =
    some (false, 0, true, .idle, [.disarm]) := by decide

/-- B3.2 cycle 4. -/
theorem test_timer_expires : after (fun t => (t.tcnt, t.tifg, t.mscnt)) (waiting 0x50002 0 .run 2 2 false) =
    some (0, true, 2) := by decide

/-- B3.2 cycle 5. -/
theorem test_poll_counts_a_tick : after (fun t => (t.tcnt, t.tifg, t.mscnt, t.trace)) (waiting 0x50002 0 .run 2 0 true) =
    some (1, false, 1, [.tick]) := by decide

/-- A6, first row of `SENDI 0xA5` in B4.1. -/
theorem test_sendi_first : after (fun t => (t.rs, t.en, t.nib, t.pout.own)) (running 0x600A5 0) =
    some (0, 0, 0xA, 0x28) := by decide

/-- B4.1 `SENDI 0xA5`, micro-step 4. -/
theorem test_sendi_low : after (fun t => (t.nib, t.pout.own, t.step)) { running 0x600A5 4 with nib := 0xA, en := 1 } =
    some (5, 0x14, 5) := by decide

/-- A6: micro-step 2 of `SENDD 0x41`. -/
theorem test_sendd_rise : after (fun t => (t.en, t.pout.own)) { running 0x70041 2 with rs := 1, nib := 4 } =
    some (1, 0x13) := by decide

/-- A6: micro-step 8 of `SENDD 0x41` ends the command. -/
theorem test_sendd_last : after (fun t => (t.en, t.pout.own, t.ph, t.step)) { running 0x70041 8 with rs := 1, nib := 1, en := 1 } =
    some (0, 0x05, .idle, 9) := by decide

/-- B3.2 cycle 0. -/
theorem test_acceptance : after (fun t => (t.ph, t.opl, t.argl, t.sub)) (fed [Inputs.offer 0x50002]) =
    some (.exec, 5, 2, .arm) := by decide

/-- B6.1. -/
theorem test_reset : after (fun t => (t.rs, t.trun, t.mscnt, t.ph, t.pout.bits.toNat))
    { waiting 0x50014 0 .run 7 1 true with rs := 1, inputs := [{ Inputs.quiet true with rst := true }] } =
    some (0, false, 0, .idle, 0xD6) := by decide

/-- B4.5: the environment sets `POUT[7:6]` at the edge of a `Flush()`; both take effect. -/
theorem test_foreign_write : after (fun t => t.pout.bits.toNat)
    { running 0x40000 0 with nib := 8, inputs := [{ Inputs.quiet true with foreign := some 1 }] } = some 0x60 := by decide

theorem test_reserved_offer : nextOf (step (fed [Inputs.offer 0x90000])) = none := by decide

theorem test_runs_after_reset : after (fun t => t.rs) (State.reset.withFetchWord 24 0x10001) = some 1 := by decide

/-! ## Host sequences -/

/-- A2. -/
theorem test_cursor_bytes : [0, 14, 15, 16].map cursorByte = [0x80, 0x8E, 0xBF, 0xC0] := by decide

/-- A3. -/
theorem test_send_string_ab : words (sendString [0x41, 0x42]) = [0x60080, 0x70041, 0x60081, 0x70042] := by decide

/-! ## Witnesses: a state and operands that meet each statement's hypotheses -/

theorem idle_inv (ins : List Inputs) : (fed ins).Inv :=
  ⟨by simp [fed, idle], by simp [fed, idle], by simp [fed, idle, State.reset], by simp [fed, idle, State.reset],
    by simp [fed, idle, State.reset], by simp [fed, idle, State.reset], by simp [fed, idle, State.reset],
    by simp [fed, idle, State.reset], by simp [fed, idle, State.reset]⟩

/-- `DELAY 2` at its `ARM` sub-step. -/
theorem arm_inv : (running 0x50002 0).Inv :=
  ⟨by decide, by decide, fun _ => ⟨.delay 2, by decide, by decide, fun h => absurd rfl h⟩, fun h => absurd h (by decide),
    by decide, by decide, by decide, by decide, by decide⟩

/-- `DELAY 2` with a tick to be counted. -/
theorem tick_inv : (waiting 0x50002 0 .run 2 0 true).Inv :=
  ⟨by decide, by decide, fun _ => ⟨.delay 2, by decide, by decide, fun _ => ⟨2, by decide, by decide⟩⟩,
    fun h => absurd h (by decide), by decide, by decide, by decide, by decide, by decide⟩

/-- A flushing micro-step of `SENDD 0x41`. -/
theorem flush_inv : (running 0x70041 0).Inv :=
  ⟨by decide, by decide, fun _ => ⟨.sendd 0x41, by decide, by decide, fun h => absurd rfl h⟩,
    fun h => absurd h (by decide), by decide, by decide, by decide, by decide, by decide⟩

theorem witness_DecodeInvertsEncode : (Instr.sendd 0xFF).wf = true := by decide

theorem witness_DecoderAgreesWithOpcodeMap : ⟨"SENDD", 0x70000, 0xF0000⟩ ∈ opcodeTable ∧
    (0x7FF41 : CmdWord) &&& 0xF0000 = 0x70000 ∧ decode 0x70041 = .ok (.sendd 0x41) ∧ idle.step = 0 := by decide

theorem witness_IgnoredBitsAndCanonicalWords : CmdWord.op 0x30013 = CmdWord.op 0x30003 ∧
    (0x30013 : CmdWord) &&& operandMask (CmdWord.op 0x30013) = 0x30003 &&& operandMask (CmdWord.op 0x30013) ∧
    decode 0x30013 = .ok (.setnib 3) ∧ assemble [['F', 'L', 'U', 'S', 'H']] = .ok [0x40000] := by decide

theorem witness_ReservedOpcodesAreRefused_low : (fed [Inputs.offer 0x0FFFF]).cmdReady = true ∧
    (fed [Inputs.offer 0x0FFFF]).offers 0x0FFFF ∧ (CmdWord.op 0x0FFFF).toNat = 0 :=
  ⟨by decide, ⟨by decide, by decide⟩, by decide⟩

theorem witness_ReservedOpcodesAreRefused_high : (fed [Inputs.offer 0x80000]).cmdReady = true ∧
    (fed [Inputs.offer 0x80000]).offers 0x80000 ∧ 8 ≤ (CmdWord.op 0x80000).toNat :=
  ⟨by decide, ⟨by decide, by decide⟩, by decide⟩

theorem witness_ResetValues : resetEdge idle = resetEdge idle ∧ State.reset = State.reset := ⟨rfl, rfl⟩

theorem witness_ResetWinsAtAnyEdge :
    (fed [{ Inputs.offer 0x40000 with rst := true }]).nextInputs.rst = true := by decide

theorem witness_AcceptanceLatchesTheOfferedWord : (fed [Inputs.offer 0x70041]).cmdReady = true ∧
    (fed [Inputs.offer 0x70041]).offers 0x70041 ∧ decode 0x70041 = .ok (.sendd 0x41) ∧
    (running 0x50002 0).ph = .exec ∧ ({ running 0x50002 0 with inputs := [Inputs.offer 0x40000] } : State).inputs =
      Inputs.offer 0x40000 :: [] :=
  ⟨by decide, ⟨by decide, by decide⟩, by decide, by decide, rfl⟩

theorem witness_IdleBlockKeepsItsState : idle.ph = .idle ∧ idle.trun = false ∧ idle.nextInputs.rst = false ∧
    idle.nextInputs.cmdValid = false := by decide

theorem witness_IdleSequencerRegistersHaveNoEffect : (fed [Inputs.offer 0x40000]).ph = .idle ∧
    (fed [Inputs.offer 0x40000]).nextInputs.cmdValid = true := by decide

theorem witness_StepRunsTheLatchedCommand : (running 0x70041 0).ph = .exec ∧ (running 0x70041 0).nextInputs.rst = false ∧
    decode (running 0x70041 0).latched = .ok (.sendd 0x41) ∧ (Instr.sendd 0x41).wf = true := by decide

theorem witness_FetchWordRunsNext : decodeTableWord 24 0x60080 = some (.sendi 0x80) := by decide

theorem witness_SetCommandsWriteOneField : idle.step = 0 := by decide

theorem witness_FlushWritesSixPortBits : idle.step = 0 ∧ 6 ≤ idle.pout.width ∧ 7 < idle.pout.width := by decide

theorem witness_DelaySubSteps : (running 0x50002 0).step = 0 ∧ (running 0x50002 0).sub = .arm ∧
    (waiting 0x50002 0 .run 0 1 false).mscnt = 0 ∧ (waiting 0x50002 0 .run 2 0 true).mscnt ≠ 0 ∧
    (waiting 0x50002 0 .run 2 0 true).tifg = true ∧ (waiting 0x50002 0 .run 2 1 false).tifg = false ∧
    (waiting 0x50002 0 .run 2 1 false).sub = .run ∧ (waiting 0x50002 0 .stop 0 1 false).sub = .stop := by decide

theorem witness_WaitSubStepsOfEveryCommand :
    (microSteps (.sendi 0))[(waiting 0x60000 7 .run 1 0 true).step.toNat]? = some (.wait 1) ∧
    (microSteps (.delay 2))[(running 0x50002 0).step.toNat]? = some (.wait 2) ∧
    (waiting 0x60000 7 .run 1 0 true).sub = .run ∧ (waiting 0x60000 7 .run 1 0 true).mscnt ≠ 0 ∧
    (waiting 0x60000 7 .run 1 0 true).tifg = true ∧ (waiting 0x60000 7 .stop 0 0 true).sub = .stop ∧
    (running 0x60000 7).sub = .arm := by decide

theorem witness_TransferMicroSteps : [0, 2, 4, 6, 8].map (fun k => (running 0x70041 k).step) = [0, 2, 4, 6, 8] := by decide

theorem witness_CommandsCompleteAtEveryMicroStep : (running 0x60080 8).step.toNat ≤ 8 ∧
    (microSteps (.sendi 0x80)).length ≤ (running 0x60080 9).step.toNat ∧
    (microSteps .flush).length ≤ (running 0x40000 1).step.toNat := by decide

theorem witness_CommandFrames : [exec (.setrs 1) idle, exec (.seten 1) idle, exec (.setnib 1) idle, exec .flush idle,
    exec (.delay 1) idle, exec (.sendi 1) idle, exec (.sendd 1) (running 0x70001 1)].all
    (fun o => (nextOf o).isSome) = true := by decide

theorem witness_TimerCountsItsPeriod :
    ((nextOf (step (waiting 0x50002 0 .run 2 2 false))).isSome ∧
      (waiting 0x50002 0 .run 2 2 false).tcnt = (waiting 0x50002 0 .run 2 2 false).tper - 1) ∧
    ((nextOf (step (waiting 0x50002 0 .run 2 1 false))).isSome ∧
      (waiting 0x50002 0 .run 2 1 false).tcnt ≠ (waiting 0x50002 0 .run 2 1 false).tper - 1) ∧
    (after (fun t => t.sub) idle = some .arm ∧ idle.trun = false) ∧
    (after (fun t => t.sub) (running 0x50002 0) = some .run ∧ (running 0x50002 0).sub = .arm) ∧
    after (fun t => t.tifg) (waiting 0x50002 0 .run 2 2 false) = some true := by decide

theorem witness_NoTickIsLost : (waiting 0x50002 0 .run 2 0 true).Inv ∧ (waiting 0x50002 0 .run 2 0 true).trun = true ∧
    (waiting 0x50002 0 .run 2 0 true).tifg = true ∧ (waiting 0x50002 0 .run 2 0 true).mscnt ≠ 0 ∧
    (nextOf (step (waiting 0x50002 0 .run 2 0 true))).isSome = true :=
  ⟨tick_inv, by decide, by decide, by decide, by decide⟩

theorem witness_TimerStoppedOutsideWaits : (fed []).Inv ∧ (fed []).ph = .idle ∧ (running 0x70041 0).Inv ∧
    decode (running 0x70041 0).latched = .ok (.sendd 0x41) ∧ (running 0x70041 0).ph = .exec ∧
    (microSteps (.sendd 0x41))[(running 0x70041 0).step.toNat]? =
      some (.body [.writeRs 1, .writeEn 0, .writeNib (highNibble 0x41), .flush]) :=
  ⟨idle_inv [], by decide, flush_inv, by decide, by decide, by decide⟩

theorem witness_WaitTakesItsCycles : (running 0x50002 0).Inv ∧ (running 0x50002 0).ph = .exec ∧
    decode (running 0x50002 0).latched = .ok (.delay 2) ∧ (microSteps (.delay 2))[(running 0x50002 0).step.toNat]? = some (.wait 2) ∧
    (running 0x50002 0).sub = .arm ∧ (running 0x50002 0).noResetFor 10 :=
  ⟨arm_inv, by decide, by decide, by decide, by decide, by simp [State.noResetFor, running, accept, idle, State.reset]⟩

theorem witness_WaitHoldsThePins : (running 0x50002 0).Inv ∧ (running 0x50002 0).ph = .exec ∧
    decode (running 0x50002 0).latched = .ok (.delay 2) ∧
    (microSteps (.delay 2))[(running 0x50002 0).step.toNat]? = some (.wait 2) ∧ (running 0x50002 0).sub = .arm ∧
    6 ≤ (2 : Count).toNat * (running 0x50002 0).ticksPerMs.toNat ∧ (running 0x50002 0).noResetFor 6 :=
  ⟨arm_inv, by decide, by decide, by decide, by decide, by decide,
    by simp [State.noResetFor, running, accept, idle, State.reset]⟩

theorem witness_DelayZeroArmsAndDisarms : (running 0x50000 0).ph = .exec ∧ decode (running 0x50000 0).latched = .ok (.delay 0) ∧
    (running 0x50000 0).step = 0 ∧ (running 0x50000 0).sub = .arm ∧ (running 0x50000 0).noResetFor 3 :=
  ⟨by decide, by decide, by decide, by decide, by simp [State.noResetFor, running, accept, idle, State.reset]⟩

/-- A host that offers one word and then nothing never resets the block. -/
theorem no_reset_of_offer (w : CmdWord) (n : Nat) : (fed [Inputs.offer w]).noResetFor n := by
  intro inp h
  have h' : inp ∈ (fed [Inputs.offer w]).inputs := List.mem_of_mem_take h
  simp [fed, Inputs.offer] at h'
  simp [h']

theorem witness_CommandRunsToItsEnd : (fed [Inputs.offer 0x60080]).Inv ∧ (fed [Inputs.offer 0x60080]).cmdReady = true ∧
    (fed [Inputs.offer 0x60080]).offers 0x60080 ∧ decode 0x60080 = .ok (.sendi 0x80) ∧
    (fed [Inputs.offer 0x60080]).noResetFor (commandCycles (fed [Inputs.offer 0x60080]).ticksPerMs.toNat (.sendi 0x80)) :=
  ⟨idle_inv _, by decide, ⟨by decide, by decide⟩, by decide, no_reset_of_offer _ _⟩

theorem witness_CommandIsBusyUntilItsEnd : (fed [Inputs.offer 0x60080]).Inv ∧
    (fed [Inputs.offer 0x60080]).cmdReady = true ∧ (fed [Inputs.offer 0x60080]).offers 0x60080 ∧
    decode 0x60080 = .ok (.sendi 0x80) ∧ 0 < 33 ∧
    33 < commandCycles (fed [Inputs.offer 0x60080]).ticksPerMs.toNat (.sendi 0x80) ∧
    (fed [Inputs.offer 0x60080]).noResetFor 33 :=
  ⟨idle_inv _, by decide, ⟨by decide, by decide⟩, by decide, by decide, by decide, no_reset_of_offer _ _⟩

theorem witness_TransferEndState : (fed [Inputs.offer 0x70041]).Inv ∧ (fed [Inputs.offer 0x70041]).cmdReady = true ∧
    (fed [Inputs.offer 0x70041]).offers 0x70041 ∧ decode 0x70041 = .ok (.sendd 0x41) ∧
    (fed [Inputs.offer 0x70041]).noResetFor (4 * (fed [Inputs.offer 0x70041]).ticksPerMs.toNat + 22) :=
  ⟨idle_inv _, by decide, ⟨by decide, by decide⟩, by decide, no_reset_of_offer _ _⟩

theorem witness_CommandCycleCounts : 1 ≤ (1 : Count).toNat := by decide

theorem witness_TransferTimedPinTrace : (Instr.sendd 0x41 = .sendi 0x41 ∧ (1 : Pins) = 0) ∨
    (Instr.sendd 0x41 = .sendd 0x41 ∧ (1 : Pins) = 1) := by decide

theorem witness_TransferEventCounts : Instr.sendi 0xFF = .sendi 0xFF ∨ Instr.sendi 0xFF = .sendd 0xFF := by decide

theorem witness_TransferEnableEdges : Instr.sendd 0x41 = .sendd 0x41 ∧ true = true ∧ enLine 0x3D = false ∧
    enLine 0x3F = true ∧ 0x11 ∈ outs (commandEvents idle (.sendd 0x41)) := by decide

theorem witness_TraceGrowsByAtMostOneEvent : (nextOf (step (running 0x40000 0))).isSome = true ∧
    (running 0x40000 0).nextInputs.rst = false := by decide

theorem witness_OnlyFlushChangesThePins : 6 ≤ (running 0x40000 0).pout.width ∧
    (nextOf (step (running 0x40000 0))).any (fun t => t.pout.own != (running 0x40000 0).pout.own) = true := by decide

theorem witness_ForeignBitsBelongToTheEnvironment :
    (nextOf (step (fed [{ Inputs.quiet true with foreign := some 2 }]))).isSome = true ∧ 6 ≤ 7 ∧
    7 < (fed [{ Inputs.quiet true with foreign := some 2 }]).pout.width ∧ 6 < idle.pout.width := by decide

theorem witness_PinsShowThePort : idle.ioEnable = true ∧ (nextOf (step idle)).isSome = true := by decide

theorem witness_ControlStateWriters : after (fun t => t.rs) (running 0x10001 0) = some 1 ∧ (running 0x10001 0).rs = 0 ∧
    after (fun t => t.en) (running 0x20001 0) = some 1 ∧ (running 0x20001 0).en = 0 ∧
    after (fun t => t.nib) (running 0x3000F 0) = some 15 ∧ (running 0x3000F 0).nib = 0 ∧
    (running 0x10001 0).nextInputs.rst = false := by decide

theorem witness_StepIndexOnlyAdvances : (running 0x70041 0).Inv ∧ (nextOf (step (running 0x70041 0))).isSome = true ∧
    (running 0x70041 0).nextInputs.rst = false ∧ (running 0x70041 0).ph = .exec := ⟨flush_inv, by decide, by decide, by decide⟩

theorem witness_ParametersAreConstant : (nextOf (step idle)).isSome = true := by decide

theorem witness_StepKeepsInvariant : (waiting 0x50002 0 .run 2 0 true).Inv ∧
    (nextOf (step (waiting 0x50002 0 .run 2 0 true))).isSome = true := ⟨tick_inv, by decide⟩

theorem witness_OnlyReservedOpcodesStopTheMachine : (fed [Inputs.offer 0x80000]).Inv ∧
    nextOf (step (fed [Inputs.offer 0x80000])) = none := ⟨idle_inv _, by decide⟩

theorem witness_MicroStepLevelAdmitsEveryEdge : (waiting 0x50002 0 .run 2 0 true).Inv ∧
    (nextOf (step (waiting 0x50002 0 .run 2 0 true))).isSome = true := ⟨tick_inv, by decide⟩

theorem witness_SetCursorBytes : 14 < 15 ∧ 15 ≤ 15 ∧ 31 < 32 ∧ 32 ≤ 32 := by decide

theorem witness_SendStringCommands : (31 : Nat) < 32 ∧ (List.replicate 40 (0x41 : Byte))[31]? = some 0x41 := by decide

end Sys2Proof.Tests
end

section
/-! SUPPORT. Rules for the proofs of every family: each sub-step of a running command as an equation, and what bodies of
micro-steps do to the trace and to the parameters. -/

namespace Sys2Proof.Machine

/-! ## The sub-steps of a running command, forwards -/

theorem runMicro_of_body {ms : List Micro} {ps : List Prim} {s : State}
    (hm : ms[s.step.toNat]? = some (.body ps)) :
    runMicro ms s = .next (completeStep ms.length (runBody ps s)) := by
  simp [runMicro, hm]

theorem runMicro_of_arm {ms : List Micro} {n : Count} {s : State}
    (hm : ms[s.step.toNat]? = some (.wait n)) (hs : s.sub = .arm) : runMicro ms s = .next (waitArm n s) := by
  simp [runMicro, hm, hs]

theorem runMicro_of_run {ms : List Micro} {n : Count} {s : State}
    (hm : ms[s.step.toNat]? = some (.wait n)) (hs : s.sub = .run) : runMicro ms s = .next (waitRun s) := by
  simp [runMicro, hm, hs]

theorem runMicro_of_stop {ms : List Micro} {n : Count} {s : State}
    (hm : ms[s.step.toNat]? = some (.wait n)) (hs : s.sub = .stop) :
    runMicro ms s = .next (completeStep ms.length (waitStop s)) := by
  simp [runMicro, hm, hs]

/-- What one edge of the running command `i` can be, through its micro-step list. -/
theorem exec_next {i : Instr} {s t : State} (h : exec i s = .next t) :
    (∃ ps, (microSteps i)[s.step.toNat]? = some (.body ps) ∧
      t = completeStep (microSteps i).length (runBody ps s)) ∨
    (∃ n, (microSteps i)[s.step.toNat]? = some (.wait n) ∧
      ((s.sub = .arm ∧ t = waitArm n s) ∨ (s.sub = .run ∧ t = waitRun s) ∨
       (s.sub = .stop ∧ t = completeStep (microSteps i).length (waitStop s)))) :=
  runMicro_next (exec_eq_runMicro i s ▸ h)

/-! ## Bodies of micro-steps -/

theorem runBody_cons (p : Prim) (ps : List Prim) (s : State) :
    runBody (p :: ps) s = runBody ps (runPrim s p) := rfl

/-- A body appends one event for each of its `Flush()`es, and no other (R100 to R104). -/
theorem runBody_trace (ps : List Prim) (s : State) :
    ∃ es, (runBody ps s).trace = s.trace ++ es ∧ es.length = ps.count .flush := by
  induction ps generalizing s with
  | nil => exact ⟨[], by simp [runBody]⟩
  | cons p ps ih =>
    obtain ⟨es, htrace, hlen⟩ := ih (runPrim s p)
    rw [runBody_cons, htrace]
    cases p with
    | writeRs v => exact ⟨es, rfl, by simpa using hlen⟩
    | writeEn v => exact ⟨es, rfl, by simpa using hlen⟩
    | writeNib n => exact ⟨es, rfl, by simpa using hlen⟩
    | flush => exact ⟨.out s.v6 :: es, by simp [runPrim], by simpa using hlen⟩

theorem sendSteps_count_flush_le_one {rs : BitVec 1} {b : Byte} {ps : List Prim}
    (h : .body ps ∈ sendSteps rs b) : ps.count .flush ≤ 1 := by
  simp only [sendSteps, List.mem_cons, Micro.body.injEq, reduceCtorEq, false_or, List.not_mem_nil, or_false] at h
  rcases h with rfl | rfl | rfl | rfl | rfl <;> simp

/-- No micro-step of any command flushes twice (R100 to R103, R110). -/
theorem microSteps_count_flush_le_one {i : Instr} {ps : List Prim} (h : .body ps ∈ microSteps i) :
    ps.count .flush ≤ 1 := by
  cases i with
  | setrs v => simp_all [microSteps, setrsSteps]
  | seten v => simp_all [microSteps, setenSteps]
  | setnib n => simp_all [microSteps, setnibSteps]
  | flush => simp_all [microSteps, flushSteps]
  | delay count => simp [microSteps, delaySteps] at h
  | sendi b => exact sendSteps_count_flush_le_one h
  | sendd b => exact sendSteps_count_flush_le_one h

/-! ## The parameters -/

@[simp] theorem runBody_ticksPerMs (ps : List Prim) (s : State) : (runBody ps s).ticksPerMs = s.ticksPerMs := by
  rw [runBody_frame]

@[simp] theorem runBody_pout_width (ps : List Prim) (s : State) : (runBody ps s).pout.width = s.pout.width := by
  induction ps generalizing s with
  | nil => rfl
  | cons p ps ih =>
    rw [runBody_cons, ih]
    cases p <;> rfl

theorem exec_parameters {i : Instr} {s t : State} (h : exec i s = .next t) :
    t.ticksPerMs = s.ticksPerMs ∧ t.pout.width = s.pout.width := by
  rcases exec_next h with ⟨ps, -, rfl⟩ | ⟨n, -, ⟨-, rfl⟩ | ⟨-, rfl⟩ | ⟨-, rfl⟩⟩
  all_goals simp

/-! ## The trace -/

/-- One edge of a running command emits at most one event. -/
theorem exec_trace {i : Instr} {s t : State} (h : exec i s = .next t) :
    t.trace = s.trace ∨ ∃ e, t.trace = s.trace ++ [e] := by
  rcases exec_next h with ⟨ps, hm, rfl⟩ | ⟨n, -, ⟨-, rfl⟩ | ⟨-, rfl⟩ | ⟨-, rfl⟩⟩
  · obtain ⟨es, htrace, hlen⟩ := runBody_trace ps s
    have hone : es.length ≤ 1 := hlen ▸ microSteps_count_flush_le_one (List.mem_of_getElem? hm)
    rw [completeStep_trace, htrace]
    match es, hone with
    | [], _ => exact .inl (List.append_nil _)
    | [e], _ => exact .inr ⟨e, rfl⟩
  · exact .inr ⟨.arm, rfl⟩
  · rcases waitRun_cases s with ⟨-, hw⟩ | ⟨-, -, hw⟩ | ⟨-, -, hw⟩ <;> rw [hw]
    · exact .inl rfl
    · exact .inr ⟨.tick, rfl⟩
    · exact .inl rfl
  · exact .inr ⟨.disarm, rfl⟩

end Sys2Proof.Machine
end

section
/-! SUPPORT. The clock-edge machine and the micro-step level (spec/00_scope.md R10): each part of a clock edge as a
transition of the micro-step level, and where in the edge its *expire* belongs. -/

namespace Sys2Proof.Machine

theorem microRun_cons {e : MicroEvent} {es : List MicroEvent} {s s' : State} (h : microApply s e = some s') :
    microRun (e :: es) s = microRun es s' := by
  simp [microRun, h]

theorem microApply_environment (inp : Inputs) (s : State) :
    microApply (microView s) (.environment inp) = some (microView (environment inp s)) := rfl

theorem microApply_reset (s : State) : microApply (microView s) .reset = some (microView (resetEdge s)) := rfl

theorem microApply_accept {op : Opcode} {arg : Arg} {i : Instr} {s : State} (hp : s.ph = .idle)
    (hd : decode (commandWord op arg) = .ok i) :
    microApply (microView s) (.accept op arg) = some (microView (accept op arg s)) := by
  simp only [microApply, show (microView s).ph = .idle from hp, hd]
  rfl

theorem microApply_expire {s : State} (ht : s.trun = true) (hf : s.tifg = false) :
    microApply (microView s) .expire = some (microView { s with tifg := true }) := by
  simp [microApply, expire, microView, ht, hf]

/-- No body reads or writes `TCNT`. -/
theorem runBody_microView (ps : List Prim) (s : State) : runBody ps (microView s) = microView (runBody ps s) := by
  induction ps generalizing s with
  | nil => rfl
  | cons p ps ih =>
    rw [runBody_cons, runBody_cons, ← ih]
    cases p <;> rfl

theorem waitRun_microView (s : State) : waitRun (microView s) = microView (waitRun s) := by
  unfold waitRun
  rw [apply_ite microView, apply_ite microView]
  rfl

/-- The sequencer does not read `TCNT`, so it does the same at both levels. -/
theorem exec_microView {i : Instr} {s u : State} (h : exec i s = .next u) :
    exec i (microView s) = .next (microView u) := by
  rw [exec_eq_runMicro]
  rcases exec_next h with ⟨ps, hm, rfl⟩ | ⟨n, hm, ⟨hs, rfl⟩ | ⟨hs, rfl⟩ | ⟨hs, rfl⟩⟩
  · rw [runMicro_of_body (s := microView s) hm, runBody_microView]
    rfl
  · exact runMicro_of_arm (s := microView s) hm hs
  · rw [runMicro_of_run (s := microView s) hm hs, waitRun_microView]
  · exact runMicro_of_stop (s := microView s) hm hs

theorem microApply_sequencer {i : Instr} {s u : State} (hu : exec i s = .next u) (hp : s.ph = .exec)
    (hd : decode s.latched = .ok i) : microApply (microView s) .sequencer = some (microView u) := by
  simp only [microApply, show (microView s).ph = .exec from hp, show decode (microView s).latched = .ok i from hd,
    exec_microView hu, nextOf]

/-- With `TRUN = 0` the timer does nothing (R147). -/
theorem timerEdge_of_stopped {pre : State} (post : State) (h : pre.trun = false) : timerEdge pre post = post := by
  simp [timerEdge, h]

/-- The environment's turn keeps the invariant: it writes nothing the invariant speaks of but the port, and not its
width (R59). -/
theorem State.Inv.environment {s : State} (hs : s.Inv) (inp : Inputs) : (environment inp s).Inv where
  portWide := (Port.width_environment s.pout inp).symm ▸ hs.portWide
  ticksRange := hs.ticksRange
  running := hs.running
  idleSub := hs.idleSub
  timerArmed := hs.timerArmed
  period := hs.period
  flagFresh := hs.flagFresh
  lastTick := hs.lastTick
  stopZero := hs.stopZero

/-- The timer of an idle block is stopped (R148). -/
theorem State.Inv.trun_of_idle {s : State} (hs : s.Inv) (hp : s.ph = .idle) : s.trun = false := by
  simpa [hs.idleSub hp] using hs.timerArmed

/-- No tick is lost: an expiry never finds the flag still set (R94). -/
theorem State.Inv.tifg_of_expiring {s : State} (hs : s.Inv) (ht : s.trun = true) (hc : s.tcnt = s.tper - 1) :
    s.tifg = false := by
  by_contra hf
  have hzero : s.tcnt = 0 := hs.flagFresh ht (by simpa using hf)
  have hperiod : s.tper = s.ticksPerMs := (hs.period ht).1
  have hrange := hs.ticksRange
  rw [hzero, hperiod] at hc
  bv_omega

/-- While the timer runs, an edge of the running command is a poll or the end of a wait (R91, R148). -/
theorem State.Inv.exec_of_trun {s u : State} {i : Instr} (hs : s.Inv) (hp : s.ph = .exec)
    (ht : s.trun = true) (hd : decode s.latched = .ok i) (hu : exec i s = .next u) :
    u = waitRun s ∨
    (∃ n, (microSteps i)[s.step.toNat]? = some (.wait n) ∧ s.sub = .stop ∧
      u = completeStep (microSteps i).length (waitStop s)) := by
  have hsub : s.sub ≠ .arm := hs.timerArmed.mp ht
  rcases exec_next hu with ⟨ps, hm, -⟩ | ⟨n, hm, ⟨harm, -⟩ | ⟨-, hrun⟩ | ⟨hstop, hend⟩⟩
  · obtain ⟨j, hj, -, hwait⟩ := hs.running hp
    obtain rfl : i = j := Except.ok.inj (hd.symm.trans hj)
    obtain ⟨n, hn, -⟩ := hwait hsub
    exact absurd (hm.symm.trans hn) (by simp)
  · exact absurd harm hsub
  · exact .inl hrun
  · exact .inr ⟨n, hm, hstop, hend⟩

/-- A poll does not set the flag. -/
theorem waitRun_tifg_of_clear {s : State} (hf : s.tifg = false) : (waitRun s).tifg = false := by
  rcases waitRun_cases s with ⟨-, hw⟩ | ⟨-, hset, -⟩ | ⟨-, -, hw⟩
  · rw [hw]; exact hf
  · exact absurd (hf.symm.trans hset) (by simp)
  · rw [hw]; exact hf

/-- The edge of a running command at which the timer expires: after a poll the expiry can still come, since the timer
runs on; `STOP` ends the timer, so there the expiry has to come before it. -/
theorem microRun_of_expiring {s u : State} {i : Instr} (hs : s.Inv) (hp : s.ph = .exec)
    (ht : s.trun = true) (hc : s.tcnt = s.tper - 1) (hd : decode s.latched = .ok i)
    (hu : exec i s = .next u) :
    ∃ es : List MicroEvent, es.length ≤ 2 ∧
      microRun es (microView s) = some (microView { u with tcnt := 0, tifg := true }) := by
  have hf : s.tifg = false := hs.tifg_of_expiring ht hc
  rcases hs.exec_of_trun hp ht hd hu with rfl | ⟨n, hm, hstop, rfl⟩
  · refine ⟨[.sequencer, .expire], le_rfl, ?_⟩
    have hrun : (waitRun s).trun = true := (waitRun_trun _).trans ht
    have hclear : (waitRun s).tifg = false := waitRun_tifg_of_clear hf
    rw [microRun_cons (microApply_sequencer hu hp hd), microRun_cons (microApply_expire hrun hclear)]
    rfl
  · refine ⟨[.expire, .sequencer], le_rfl, ?_⟩
    have hend : exec i { s with tifg := true } =
        .next (completeStep (microSteps i).length (waitStop { s with tifg := true })) :=
      (exec_eq_runMicro i _).trans (runMicro_of_stop hm hstop)
    rw [microRun_cons (microApply_expire ht hf),
      microRun_cons (microApply_sequencer hend hp hd)]
    rfl

/-- An edge of a running command: the sequencer, and the timer's expiry if there is one. -/
theorem microRun_of_exec {s u : State} {i : Instr} (hs : s.Inv) (hp : s.ph = .exec)
    (hd : decode s.latched = .ok i) (hu : exec i s = .next u) :
    ∃ es : List MicroEvent, es.length ≤ 2 ∧
      microRun es (microView s) = some (microView (timerEdge s u)) := by
  have hseq : microRun [.sequencer] (microView s) = some (microView u) :=
    microRun_cons (microApply_sequencer hu hp hd)
  rcases timerEdge_cases s u with ⟨-, ht⟩ | ⟨-, -, ht⟩ | ⟨-, hrun, hc, ht⟩ | ⟨-, -, -, ht⟩ <;>
    rw [ht]
  · exact ⟨[.sequencer], by simp, hseq⟩
  · exact ⟨[.sequencer], by simp, hseq⟩
  · exact microRun_of_expiring hs hp hrun hc hd hu
  · exact ⟨[.sequencer], by simp, hseq⟩

end Sys2Proof.Machine
end

section
/-! The statements of spec/00_scope.md. -/

namespace Sys2Proof.Machine

/-- Settles O45: the environment's turn comes first; a reset or an acceptance is one transition more, for an idle timer
is stopped, and the edge of a running command is `microRun_of_exec`. -/
theorem microStepLevelAdmitsEveryEdge : Obligations.MicroStepLevelAdmitsEveryEdge := by
  intro s t hs h
  rcases step_next h with ⟨-, rfl⟩ | ⟨-, hp, -, ⟨i, hd⟩, rfl⟩ | ⟨-, hp, -, rfl⟩ | ⟨-, hp, i, u, hd, hu, rfl⟩
  · refine ⟨[.environment s.nextInputs, .reset], by simp, ?_⟩
    rw [microRun_cons (microApply_environment _ _)]
    exact microRun_cons (microApply_reset _)
  · refine ⟨[.environment s.nextInputs, .accept s.nextInputs.cmdOp s.nextInputs.cmdArg], by simp, ?_⟩
    rw [timerEdge_of_stopped _ ((hs.environment _).trun_of_idle hp), microRun_cons (microApply_environment _ _)]
    exact microRun_cons (microApply_accept hp hd)
  · refine ⟨[.environment s.nextInputs], by simp, ?_⟩
    rw [timerEdge_of_stopped _ ((hs.environment _).trun_of_idle hp)]
    exact microRun_cons (microApply_environment _ _)
  · obtain ⟨es, hlen, hrun⟩ := microRun_of_exec (hs.environment _) hp hd hu
    exact ⟨.environment s.nextInputs :: es, Nat.succ_le_succ hlen,
      (microRun_cons (microApply_environment _ _)).trans hrun⟩

/-- Settles O36: only the running command emits, and the timer leaves the trace alone. -/
theorem traceGrowsByAtMostOneEvent : Obligations.TraceGrowsByAtMostOneEvent := by
  intro s t h hrst
  rcases step_next h with ⟨hr, -⟩ | ⟨-, -, -, -, rfl⟩ | ⟨-, -, -, rfl⟩ | ⟨-, -, i, u, -, hu, rfl⟩
  · exact absurd (hrst.symm.trans hr) (by simp)
  · exact .inl (timerEdge_trace _ _)
  · exact .inl (timerEdge_trace _ _)
  · rw [timerEdge_trace, ← environment_trace s.nextInputs s]
    exact exec_trace hu

/-- Settles O42: no part of a clock edge writes a parameter. -/
theorem parametersAreConstant : Obligations.ParametersAreConstant := by
  intro s t h
  rcases step_next h with ⟨-, rfl⟩ | ⟨-, -, -, -, rfl⟩ | ⟨-, -, -, rfl⟩ | ⟨-, -, i, u, -, hu, rfl⟩
  · simp
  · simp
  · simp
  · simpa using exec_parameters hu

end Sys2Proof.Machine
end

section
/-! SUPPORT. Rules of one clock edge: each outcome of a step as an equation, what it leaves unchanged, and when a running
command has a next state. -/

namespace Sys2Proof.Machine

/-! ## A clock edge, forwards -/

theorem step_reset {s : State} (hr : s.nextInputs.rst = true) :
    step s = .next (resetEdge (environment s.nextInputs s)) := by
  simp [step, hr]

theorem step_idle {s : State} (hr : s.nextInputs.rst = false) (hp : s.ph = .idle) :
    step s = onNext (idleEdge s.nextInputs (environment s.nextInputs s))
      (timerEdge (environment s.nextInputs s)) := by
  simp [step, hr, hp]

theorem idleEdge_of_command {inp : Inputs} {s : State} {i : Instr} (hv : inp.cmdValid = true)
    (hd : decode (commandWord inp.cmdOp inp.cmdArg) = .ok i) :
    idleEdge inp s = .next (accept inp.cmdOp inp.cmdArg s) := by
  simp [idleEdge, hv, hd]

/-- A ready block accepts the command it is offered (R27). -/
theorem step_of_offers {s : State} {w : CmdWord} {i : Instr} (hready : s.cmdReady = true) (hw : s.offers w)
    (hd : decode w = .ok i) :
    step s = .next (timerEdge (environment s.nextInputs s)
      (accept w.op w.arg (environment s.nextInputs s))) := by
  obtain ⟨hv, rfl⟩ := hw
  obtain ⟨hp, hr⟩ : s.ph = .idle ∧ s.nextInputs.rst = false := by simpa [State.cmdReady] using hready
  rw [step_idle hr hp, idleEdge_of_command hv hd, CmdWord.op_commandWord, CmdWord.arg_commandWord]
  rfl

/-- What a running block does at an edge is settled by `rst`, the latched word and the state the environment leaves. -/
theorem step_exec_congr {s s' : State} (hp : s.ph = .exec) (hp' : s'.ph = .exec)
    (hrst : s'.nextInputs.rst = s.nextInputs.rst) (hlatched : s'.latched = s.latched)
    (henv : environment s'.nextInputs s' = environment s.nextInputs s) : step s' = step s := by
  simp only [step, hp, hp', hrst, hlatched, henv]

/-- A post-state whose `SUB` is `ARM` was not made by `ARM`, so the timer looks at its own registers only. -/
theorem timerEdge_congr {pre pre' post : State} (hsub : post.sub = .arm) (htrun : pre'.trun = pre.trun)
    (htcnt : pre'.tcnt = pre.tcnt) (htper : pre'.tper = pre.tper) :
    timerEdge pre' post = timerEdge pre post := by
  simp [timerEdge, armedBetween, hsub, htrun, htcnt, htper]

/-! ## What an edge of a running command leaves unchanged -/

theorem runBody_append (ps qs : List Prim) (s : State) : runBody (ps ++ qs) s = runBody qs (runBody ps s) :=
  List.foldl_append

/-- A part of the state that each statement of a body keeps is kept by the body. -/
theorem runBody_keeps {α : Type} {f : State → α} {ps : List Prim} (h : ∀ p ∈ ps, ∀ s, f (runPrim s p) = f s)
    (s : State) : f (runBody ps s) = f s := by
  induction ps generalizing s with
  | nil => rfl
  | cons p ps ih =>
    rw [runBody_cons, ih (fun q hq => h q (List.mem_cons_of_mem p hq)), h p List.mem_cons_self]

/-- No command writes the latched word or what belongs to the outside. -/
theorem exec_frame {i : Instr} {s t : State} (h : exec i s = .next t) :
    t.opl = s.opl ∧ t.argl = s.argl ∧ t.ioEnable = s.ioEnable ∧ t.inputs = s.inputs ∧ t.edges = s.edges := by
  rcases exec_next h with ⟨ps, -, rfl⟩ | ⟨n, -, ⟨-, rfl⟩ | ⟨-, rfl⟩ | ⟨-, rfl⟩⟩
  · rw [runBody_frame]; simp
  · simp
  · simp
  · simp

/-- Only a body writes the control state and the port: a wait leaves them (R91). -/
theorem exec_body_or_keeps {i : Instr} {s t : State} (h : exec i s = .next t) :
    (∃ ps, .body ps ∈ microSteps i ∧ t = completeStep (microSteps i).length (runBody ps s)) ∨
    (t.rs = s.rs ∧ t.en = s.en ∧ t.nib = s.nib ∧ t.pout = s.pout) := by
  rcases exec_next h with ⟨ps, hm, rfl⟩ | ⟨n, -, ⟨-, rfl⟩ | ⟨-, rfl⟩ | ⟨-, rfl⟩⟩
  · exact .inl ⟨ps, List.mem_of_getElem? hm, rfl⟩
  · exact .inr ⟨rfl, rfl, rfl, rfl⟩
  · exact .inr (by simp)
  · exact .inr ⟨rfl, rfl, rfl, rfl⟩

/-- Every edge takes one record from the inputs, and `io_enable` from it. -/
theorem step_inputs {s t : State} (h : step s = .next t) :
    t.inputs = s.inputs.tail ∧ t.ioEnable = s.nextInputs.ioEnable := by
  rcases step_next h with ⟨-, rfl⟩ | ⟨-, -, -, -, rfl⟩ | ⟨-, -, -, rfl⟩ | ⟨-, -, i, u, -, hu, rfl⟩
  · simp
  · simp
  · simp
  · obtain ⟨-, -, hio, hin, -⟩ := exec_frame hu
    simp [hio, hin]

/-! ## Micro-step lists -/

theorem microSteps_length_pos (i : Instr) : 0 < (microSteps i).length := by
  cases i <;> exact Nat.succ_pos _

theorem microSteps_length_le (i : Instr) : (microSteps i).length ≤ 9 := by
  cases i with
  | sendi b | sendd b => exact le_rfl
  | setrs _ | seten _ | setnib _ | flush | delay _ => exact Nat.succ_le_succ (Nat.zero_le 8)

/-- The list of a command has a next state at each of its micro-steps. -/
theorem exec_completes {i : Instr} {s : State} (h : s.step.toNat < (microSteps i).length) :
    ∃ t, exec i s = .next t := by
  obtain ⟨m, hm⟩ : ∃ m, (microSteps i)[s.step.toNat]? = some m := ⟨_, List.getElem?_eq_getElem h⟩
  rw [exec_eq_runMicro]
  match m, hs : s.sub with
  | .body ps, _ => exact ⟨_, runMicro_of_body hm⟩
  | .wait n, .arm => exact ⟨_, runMicro_of_arm hm hs⟩
  | .wait n, .run => exact ⟨_, runMicro_of_run hm hs⟩
  | .wait n, .stop => exact ⟨_, runMicro_of_stop hm hs⟩

/-- Beyond its list a command stops by name (log entry 10). -/
theorem exec_beyond {i : Instr} {s : State} (h : (microSteps i).length ≤ s.step.toNat) :
    exec i s = .fault .noSuchMicroStep := by
  rw [exec_eq_runMicro]
  simp [runMicro, List.getElem?_eq_none h]

/-! ## Who writes what -/

/-- The opcode of the command that is the statement alone (R100 to R103). -/
def Prim.ownOpcode : Prim → Opcode
  | .writeRs _ => 1
  | .writeEn _ => 2
  | .writeNib _ => 3
  | .flush => 4

/-- A statement stands in the command of its own and in the two transfers only (R21, R100 to R103, R110). -/
theorem opcode_of_prim_mem {i : Instr} {ps : List Prim} {p : Prim} (hb : .body ps ∈ microSteps i) (hp : p ∈ ps) :
    i.opcode = p.ownOpcode ∨ i.opcode = 6 ∨ i.opcode = 7 := by
  cases i with
  | setrs v => simp_all [microSteps, setrsSteps, Prim.ownOpcode, Instr.opcode]
  | seten v => simp_all [microSteps, setenSteps, Prim.ownOpcode, Instr.opcode]
  | setnib n => simp_all [microSteps, setnibSteps, Prim.ownOpcode, Instr.opcode]
  | flush => simp_all [microSteps, flushSteps, Prim.ownOpcode, Instr.opcode]
  | delay count => simp [microSteps, delaySteps] at hb
  | sendi b => exact .inr (.inl rfl)
  | sendd b => exact .inr (.inr rfl)

/-- The decoder's choice is by the opcode (R72). -/
theorem op_eq_opcode_of_decode {w : CmdWord} {i : Instr} (h : decode w = .ok i) : w.op = i.opcode := by
  apply BitVec.eq_of_toNat_eq
  unfold decode at h
  split at h <;> cases h <;> assumption

/-- While a command runs `OPL` is its opcode (R26). -/
theorem opl_eq_opcode {s : State} {i : Instr} (h : decode s.latched = .ok i) : s.opl = i.opcode := by
  rw [← op_eq_opcode_of_decode h, State.latched, CmdWord.op_commandWord]

/-- A part of the state that only the statements with one opcode write changes in a body only while the command of that
opcode or a transfer runs. -/
theorem opcode_of_runBody_ne {α : Type} {f : State → α} {op : Opcode}
    (hf : ∀ p s, f (runPrim s p) ≠ f s → p.ownOpcode = op) {i : Instr} {ps : List Prim} {s : State}
    (hb : .body ps ∈ microSteps i) (hne : f (runBody ps s) ≠ f s) :
    i.opcode = op ∨ i.opcode = 6 ∨ i.opcode = 7 := by
  obtain ⟨p, hp, s', hs'⟩ : ∃ p ∈ ps, ∃ s', f (runPrim s' p) ≠ f s' := by
    by_contra hkeep
    push Not at hkeep
    exact hne (runBody_keeps hkeep s)
  exact hf p s' hs' ▸ opcode_of_prim_mem hb hp

theorem ownOpcode_of_rs_ne (p : Prim) (s : State) (h : (runPrim s p).rs ≠ s.rs) : p.ownOpcode = 1 := by
  cases p with
  | writeRs v => rfl
  | writeEn _ | writeNib _ | flush => exact absurd rfl h

theorem ownOpcode_of_en_ne (p : Prim) (s : State) (h : (runPrim s p).en ≠ s.en) : p.ownOpcode = 2 := by
  cases p with
  | writeEn v => rfl
  | writeRs _ | writeNib _ | flush => exact absurd rfl h

theorem ownOpcode_of_nib_ne (p : Prim) (s : State) (h : (runPrim s p).nib ≠ s.nib) : p.ownOpcode = 3 := by
  cases p with
  | writeNib n => rfl
  | writeRs _ | writeEn _ | flush => exact absurd rfl h

/-- A body of a command flushes only as its last statement (R103, R110). -/
theorem flush_last {i : Instr} {ps : List Prim} (hb : .body ps ∈ microSteps i) :
    .flush ∉ ps ∨ ∃ qs, ps = qs ++ [.flush] ∧ .flush ∉ qs := by
  have send : ∀ rs b, .body ps ∈ sendSteps rs b → ∃ qs, ps = qs ++ [.flush] ∧ .flush ∉ qs := by
    intro rs b h
    simp only [sendSteps, List.mem_cons, Micro.body.injEq, reduceCtorEq, false_or, List.not_mem_nil, or_false] at h
    rcases h with rfl | rfl | rfl | rfl | rfl
    · exact ⟨[.writeRs rs, .writeEn 0, .writeNib (highNibble b)], rfl, by simp⟩
    · exact ⟨[.writeEn 1], rfl, by simp⟩
    · exact ⟨[.writeEn 0, .writeNib (lowNibble b)], rfl, by simp⟩
    · exact ⟨[.writeEn 1], rfl, by simp⟩
    · exact ⟨[.writeEn 0], rfl, by simp⟩
  cases i with
  | setrs v => simp_all [microSteps, setrsSteps]
  | seten v => simp_all [microSteps, setenSteps]
  | setnib n => simp_all [microSteps, setnibSteps]
  | flush => exact .inr ⟨[], by simpa [microSteps, flushSteps] using hb, List.not_mem_nil⟩
  | delay count => simp [microSteps, delaySteps] at hb
  | sendi b => exact .inr (send 0 b hb)
  | sendd b => exact .inr (send 1 b hb)

/-- Without a `Flush()` a body neither writes the port nor emits. -/
theorem runBody_port_of_not_flushed {ps : List Prim} (h : .flush ∉ ps) (s : State) :
    (runBody ps s).pout = s.pout ∧ (runBody ps s).trace = s.trace := by
  have keeps : ∀ p ∈ ps, ∀ s, ((runPrim s p).pout, (runPrim s p).trace) = (s.pout, s.trace) := by
    intro p hp s
    cases p with
    | flush => exact absurd hp h
    | writeRs _ | writeEn _ | writeNib _ => rfl
  exact Prod.mk.inj (runBody_keeps (f := fun s => (s.pout, s.trace)) keeps s)

/-- If an edge of a running command changes `POUT[5:0]`, it ended with a `Flush()` (R57, R104). -/
theorem exec_own_ne {i : Instr} {s t : State} (hwidth : 6 ≤ s.pout.width) (h : exec i s = .next t)
    (hne : t.pout.own ≠ s.pout.own) :
    t.trace = s.trace ++ [.out t.pout.own] ∧ t.pout.own = t.v6 ∧
      (i.opcode = 4 ∨ i.opcode = 6 ∨ i.opcode = 7) := by
  rcases exec_body_or_keeps h with ⟨ps, hb, rfl⟩ | ⟨-, -, -, hpout⟩
  · rcases flush_last hb with hno | ⟨qs, rfl, hqs⟩
    · exact absurd (congrArg Port.own (runBody_port_of_not_flushed hno s).1) hne
    · obtain ⟨hpout, htrace⟩ := runBody_port_of_not_flushed hqs s
      have hflush : runBody (qs ++ [.flush]) s = flushPort (runBody qs s) := runBody_append qs [.flush] s
      have hown : (flushPort (runBody qs s)).pout.own = (runBody qs s).v6 :=
        Port.own_writeOwn _ _ (by rwa [hpout])
      rw [completeStep_trace, completeStep_pout, hflush, hown, flushPort_trace, htrace]
      exact ⟨rfl, rfl, opcode_of_prim_mem hb (List.mem_append_right qs List.mem_cons_self)⟩
  · exact absurd (congrArg Port.own hpout) hne

end Sys2Proof.Machine
end

section
/-! SUPPORT. The invariant `State.Inv`: it holds at reset, and every part of a clock edge keeps it. -/

namespace Sys2Proof.Machine

/-! ## The parts of an edge that leave the timer stopped -/

/-- Every value the open constant may have lies in the range of R4. -/
theorem ticksPerMs_range : 2 ≤ Config.ticksPerMs.toNat := by
  unfold Config.ticksPerMs
  split_ifs with h
  · decide
  · exact Nat.le_of_not_lt h

/-- A block that is idle, with no wait open and the timer stopped, has the invariant: the other clauses speak of a
running command or a running timer. -/
theorem inv_of_idle {s : State} (hwidth : 6 ≤ s.pout.width) (hticks : 2 ≤ s.ticksPerMs.toNat) (hp : s.ph = .idle)
    (hsub : s.sub = .arm) (htrun : s.trun = false) : s.Inv := by
  constructor <;> simp_all

theorem inv_resetEdge {s : State} (hs : s.Inv) : (resetEdge s).Inv :=
  inv_of_idle hs.portWide hs.ticksRange rfl rfl rfl

/-- A command that starts a micro-step of its list, with no wait open and the timer stopped, has the invariant. -/
theorem inv_of_microStep {s : State} {i : Instr} (hwidth : 6 ≤ s.pout.width) (hticks : 2 ≤ s.ticksPerMs.toNat)
    (hp : s.ph = .exec) (hd : decode s.latched = .ok i) (hstep : s.step.toNat < (microSteps i).length)
    (hsub : s.sub = .arm) (htrun : s.trun = false) : s.Inv := by
  constructor <;> simp_all

theorem inv_accept {s : State} {op : Opcode} {arg : Arg} {i : Instr} (hs : s.Inv) (hp : s.ph = .idle)
    (hd : decode (commandWord op arg) = .ok i) : (accept op arg s).Inv :=
  inv_of_microStep hs.portWide hs.ticksRange rfl hd (microSteps_length_pos i) rfl (hs.trun_of_idle hp)

/-- The running command and its micro-step. -/
theorem State.Inv.step_lt {s : State} {i : Instr} (hs : s.Inv) (hp : s.ph = .exec) (hd : decode s.latched = .ok i) :
    s.step.toNat < (microSteps i).length := by
  obtain ⟨j, hj, hlt, -⟩ := hs.running hp
  obtain rfl : i = j := Except.ok.inj (hd.symm.trans hj)
  exact hlt

/-- No wait is open at a micro-step that is a body (R91). -/
theorem State.Inv.sub_of_body {s : State} {i : Instr} {ps : List Prim} (hs : s.Inv) (hp : s.ph = .exec)
    (hd : decode s.latched = .ok i) (hm : (microSteps i)[s.step.toNat]? = some (.body ps)) : s.sub = .arm := by
  by_contra hsub
  obtain ⟨j, hj, -, hwait⟩ := hs.running hp
  obtain rfl : i = j := Except.ok.inj (hd.symm.trans hj)
  obtain ⟨n, hn, -⟩ := hwait hsub
  exact absurd (hm.symm.trans hn) (by simp)

/-- The count of an open wait bounds `MSCNT` (R25). -/
theorem State.Inv.mscnt_le {s : State} {i : Instr} {n : Count} (hs : s.Inv) (hp : s.ph = .exec)
    (hd : decode s.latched = .ok i) (hm : (microSteps i)[s.step.toNat]? = some (.wait n)) (hsub : s.sub ≠ .arm) :
    s.mscnt.toNat ≤ n.toNat := by
  obtain ⟨j, hj, -, hwait⟩ := hs.running hp
  obtain rfl : i = j := Except.ok.inj (hd.symm.trans hj)
  obtain ⟨n', hn, hle⟩ := hwait hsub
  obtain rfl : n = n' := Micro.wait.inj (Option.some.inj (hm.symm.trans hn))
  exact hle

/-- The timer runs while a wait is open, and is stopped while none is (R91, R148). -/
theorem State.Inv.trun_of_sub {s : State} (hs : s.Inv) (hsub : s.sub ≠ .arm) : s.trun = true :=
  hs.timerArmed.mpr hsub

theorem State.Inv.trun_of_arm {s : State} (hs : s.Inv) (hsub : s.sub = .arm) : s.trun = false := by
  simpa [hsub] using hs.timerArmed

/-- `STEP` counts the micro-steps without wrapping, since the lists have at most nine (R26). -/
theorem step_succ_toNat {s : State} {i : Instr} (hlt : s.step.toNat < (microSteps i).length) :
    (s.step + 1).toNat = s.step.toNat + 1 := by
  have hle := microSteps_length_le i
  rw [BitVec.toNat_add]
  exact Nat.mod_eq_of_lt (by simp; omega)

/-- The end of a micro-step, with the timer stopped, keeps the invariant. -/
theorem inv_completeStep {s : State} {i : Instr} (hwidth : 6 ≤ s.pout.width) (hticks : 2 ≤ s.ticksPerMs.toNat)
    (hp : s.ph = .exec) (hd : decode s.latched = .ok i) (hlt : s.step.toNat < (microSteps i).length)
    (hsub : s.sub = .arm) (htrun : s.trun = false) : (completeStep (microSteps i).length s).Inv := by
  by_cases hlast : s.step.toNat + 1 = (microSteps i).length
  · exact inv_of_idle hwidth hticks (by simp [hlast]) hsub htrun
  · refine inv_of_microStep hwidth hticks (by simp [hlast, hp]) hd ?_ hsub htrun
    rw [completeStep_step, step_succ_toNat hlt]
    omega

/-- A timer that is stopped at the end of an edge may have left any `TCNT` and `TIFG`. -/
theorem inv_timerEdge_of_post_stopped {post : State} (hpost : post.Inv) (htrun : post.trun = false)
    (pre : State) : (timerEdge pre post).Inv := by
  have hsub : post.sub = .arm := by
    by_contra h
    exact absurd (htrun.symm.trans (hpost.trun_of_sub h)) (by simp)
  constructor
  · simpa using hpost.portWide
  · simpa using hpost.ticksRange
  · simpa [State.latched] using hpost.running
  · simpa using hpost.idleSub
  · simp [hsub, htrun]
  · simp [htrun]
  · simp [htrun]
  · simp [hsub]
  · simp [hsub]

/-! ## The sub-steps of a wait -/

/-- `ARM` opens the wait and starts the timer (R91). -/
theorem inv_waitArm {s : State} {i : Instr} {n : Count} (hs : s.Inv) (hp : s.ph = .exec)
    (hd : decode s.latched = .ok i) (hm : (microSteps i)[s.step.toNat]? = some (.wait n)) : (waitArm n s).Inv where
  portWide := hs.portWide
  ticksRange := hs.ticksRange
  running := fun _ => ⟨i, hd, hs.step_lt hp hd, fun _ => ⟨n, hm, le_rfl⟩⟩
  idleSub := fun h => absurd (hp.symm.trans h) (by simp)
  timerArmed := by simp
  period := fun _ => ⟨rfl, Nat.lt_of_lt_of_le Nat.zero_lt_two hs.ticksRange⟩
  flagFresh := by simp
  lastTick := by simp
  stopZero := by simp

/-- After a poll the flag is clear: a poll clears it, or there was nothing to clear (R91, R144). -/
theorem State.Inv.waitRun_tifg {s : State} (hs : s.Inv) (hsub : s.sub = .run) : (waitRun s).tifg = false := by
  rcases waitRun_cases s with ⟨hzero, hw⟩ | ⟨-, -, hw⟩ | ⟨-, hclear, hw⟩
  · rw [hw]; exact hs.lastTick hsub hzero
  · rw [hw]
  · rw [hw]; exact hclear

/-- A poll leaves the wait open. -/
theorem waitRun_sub_ne_arm {s : State} (hsub : s.sub = .run) : (waitRun s).sub ≠ .arm := by
  rcases waitRun_cases s with ⟨-, hw⟩ | ⟨-, -, hw⟩ | ⟨-, -, hw⟩ <;> simp [hw, hsub]

/-- A poll never raises `MSCNT`. -/
theorem waitRun_mscnt_le (s : State) : (waitRun s).mscnt.toNat ≤ s.mscnt.toNat := by
  rcases waitRun_cases s with ⟨-, hw⟩ | ⟨hpos, -, hw⟩ | ⟨-, -, hw⟩ <;> rw [hw]
  show (s.mscnt - 1).toNat ≤ s.mscnt.toNat
  bv_omega

/-- A poll that goes on to `STOP` found `MSCNT = 0`. -/
theorem waitRun_mscnt_of_stop {s : State} (hsub : s.sub = .run) (hstop : (waitRun s).sub = .stop) :
    (waitRun s).mscnt = 0 := by
  rcases waitRun_cases s with ⟨hzero, hw⟩ | ⟨-, -, hw⟩ | ⟨-, -, hw⟩ <;> rw [hw] at hstop ⊢
  · exact hzero
  · exact absurd (hsub.symm.trans hstop) (by simp)
  · exact absurd (hsub.symm.trans hstop) (by simp)

theorem inv_waitRun {s : State} {i : Instr} {n : Count} (hs : s.Inv) (hp : s.ph = .exec)
    (hd : decode s.latched = .ok i) (hm : (microSteps i)[s.step.toNat]? = some (.wait n)) (hsub : s.sub = .run) :
    (waitRun s).Inv where
  portWide := by simpa using hs.portWide
  ticksRange := by simpa using hs.ticksRange
  running := fun _ => ⟨i, by simpa [State.latched] using hd, by simpa using hs.step_lt hp hd,
    fun _ => ⟨n, by simpa using hm, (waitRun_mscnt_le s).trans (hs.mscnt_le hp hd hm (by simp [hsub]))⟩⟩
  idleSub := by simp [hp]
  timerArmed := by simp [waitRun_sub_ne_arm hsub, hs.trun_of_sub (by simp [hsub] : s.sub ≠ .arm)]
  period := by simpa using hs.period
  flagFresh := by simp [hs.waitRun_tifg hsub]
  lastTick := by simp [hs.waitRun_tifg hsub]
  stopZero := waitRun_mscnt_of_stop hsub

/-- A poll that finds the flag clear and stays at `RUN` still has a tick to wait for. -/
theorem waitRun_mscnt_ne_zero {s : State} (hclear : s.tifg = false) (hrun : (waitRun s).sub = .run) :
    (waitRun s).mscnt ≠ 0 := by
  rcases waitRun_cases s with ⟨-, hw⟩ | ⟨-, hset, -⟩ | ⟨hpos, -, hw⟩
  · exact absurd (hw ▸ hrun) (by simp)
  · exact absurd (hclear.symm.trans hset) (by simp)
  · rw [hw]; exact hpos

/-- Below its last value the counter goes on below the period (R147). -/
theorem tcnt_succ_lt {c t : Count} (hlt : c.toNat < t.toNat) (hne : c ≠ t - 1) : (c + 1).toNat = c.toNat + 1 ∧
    c.toNat + 1 < t.toNat := by
  constructor <;> bv_omega

/-- The timer's turn after a poll: the flag is clear before it, so a set flag is fresh; and it is not set in the last
`RUN` cycle, since an expiry meets a poll that counted nothing (R94, R147, R179). -/
theorem inv_timerEdge_waitRun {s : State} {i : Instr} {n : Count} (hs : s.Inv) (hp : s.ph = .exec)
    (hd : decode s.latched = .ok i) (hm : (microSteps i)[s.step.toNat]? = some (.wait n)) (hsub : s.sub = .run) :
    (timerEdge s (waitRun s)).Inv := by
  have hu := inv_waitRun hs hp hd hm hsub
  have hrun : s.trun = true := hs.trun_of_sub (by simp [hsub])
  obtain ⟨hper, hlt⟩ := hs.period hrun
  rcases timerEdge_cases s (waitRun s) with ⟨-, ht⟩ | ⟨-, -, ht⟩ | ⟨-, -, hc, ht⟩ | ⟨-, -, hc, ht⟩ <;> rw [ht]
  · exact hu
  · exact hu
  · refine { hu with period := fun h => ⟨(hu.period h).1, ?_⟩, flagFresh := fun _ _ => rfl, lastTick := ?_ }
    · exact Nat.lt_of_lt_of_le Nat.zero_lt_two hu.ticksRange
    · exact fun hstay hzero => absurd hzero (waitRun_mscnt_ne_zero (hs.tifg_of_expiring hrun hc) hstay)
  · obtain ⟨hsucc, hbelow⟩ := tcnt_succ_lt hlt (hper ▸ hc)
    refine { hu with period := fun h => ⟨(hu.period h).1, ?_⟩, flagFresh := fun _ hset => ?_ }
    · show (s.tcnt + 1).toNat < (waitRun s).ticksPerMs.toNat
      rwa [hsucc, waitRun_ticksPerMs]
    · exact absurd ((hs.waitRun_tifg hsub).symm.trans hset) (by simp)

/-! ## A whole edge -/

/-- An edge of the running command, with the timer's turn, keeps the invariant. -/
theorem inv_timerEdge_exec {s u : State} {i : Instr} (hs : s.Inv) (hp : s.ph = .exec) (hd : decode s.latched = .ok i)
    (hu : exec i s = .next u) : (timerEdge s u).Inv := by
  have hlt := hs.step_lt hp hd
  rcases exec_next hu with ⟨ps, hm, rfl⟩ | ⟨n, hm, ⟨hsub, rfl⟩ | ⟨hsub, rfl⟩ | ⟨hsub, rfl⟩⟩
  · have hsub := hs.sub_of_body hp hd hm
    have htrun := hs.trun_of_arm hsub
    rw [timerEdge_of_stopped _ htrun, runBody_frame]
    exact inv_completeStep (by simpa using hs.portWide) hs.ticksRange hp hd hlt hsub htrun
  · rw [timerEdge_of_stopped _ (hs.trun_of_arm hsub)]
    exact inv_waitArm hs hp hd hm
  · exact inv_timerEdge_waitRun hs hp hd hm hsub
  · exact inv_timerEdge_of_post_stopped
      (inv_completeStep (s := waitStop s) hs.portWide hs.ticksRange hp hd hlt rfl rfl) rfl s

/-- Every edge keeps the invariant. -/
theorem inv_step {s t : State} (hs : s.Inv) (h : step s = .next t) : t.Inv := by
  have henv := hs.environment s.nextInputs
  rcases step_next h with ⟨-, rfl⟩ | ⟨-, hp, -, ⟨i, hd⟩, rfl⟩ | ⟨-, hp, -, rfl⟩ | ⟨-, hp, i, u, hd, hu, rfl⟩
  · exact inv_resetEdge henv
  · rw [timerEdge_of_stopped _ (henv.trun_of_idle hp)]
    exact inv_accept henv hp hd
  · rw [timerEdge_of_stopped _ (henv.trun_of_idle hp)]
    exact henv
  · exact inv_timerEdge_exec henv hp hd hu

/-! ## Where `STEP` and `PH` go -/

/-- An edge of a running command stays at its micro-step or completes it (R26). -/
theorem exec_stays_or_completes {i : Instr} {s u : State} (hu : exec i s = .next u) :
    (u.step = s.step ∧ u.ph = s.ph) ∨
    (u.step = s.step + 1 ∧ u.ph = if s.step.toNat + 1 = (microSteps i).length then .idle else s.ph) := by
  rcases exec_next hu with ⟨ps, -, rfl⟩ | ⟨n, -, ⟨-, rfl⟩ | ⟨-, rfl⟩ | ⟨-, rfl⟩⟩
  · right
    rw [runBody_frame]
    exact ⟨rfl, rfl⟩
  · exact .inl ⟨rfl, rfl⟩
  · exact .inl ⟨waitRun_step s, waitRun_ph s⟩
  · exact .inr ⟨rfl, rfl⟩

/-- `PH` becomes `IDLE` exactly with the last micro-step of the list, which `STEP` does not pass (R26). -/
theorem exec_idle_iff {i : Instr} {s u : State} (hp : s.ph = .exec) (hlt : s.step.toNat < (microSteps i).length)
    (hu : exec i s = .next u) :
    u.step.toNat ≤ (microSteps i).length ∧ (u.ph = .idle ↔ u.step.toNat = (microSteps i).length) := by
  rcases exec_stays_or_completes hu with ⟨hstep, hph⟩ | ⟨hstep, hph⟩ <;> rw [hstep, hph, hp]
  · exact ⟨hlt.le, by simp [hlt.ne]⟩
  · rw [step_succ_toNat hlt]
    exact ⟨hlt, by simp⟩

end Sys2Proof.Machine
end

section
/-! SUPPORT. The clock edges a running command still takes, counted down by one at each edge (spec/70_reset_and_hazards.md
R178 to R180, log entry 1). -/

namespace Sys2Proof.Machine

/-! ## The count -/

/-- Edges left of a wait that is polled in `RUN`: the rest of the current millisecond, the others, the last polls and
`STOP` (R179). -/
def State.pollsLeft (s : State) : Nat :=
  if s.mscnt = 0 then 2
  else if s.tifg then (s.mscnt.toNat - 1) * s.ticksPerMs.toNat + 3
  else s.mscnt.toNat * s.ticksPerMs.toNat + 3 - s.tcnt.toNat

/-- Edges left of the current micro-step (R178, R179). -/
def State.microLeft (s : State) : Micro → Nat
  | .body _ => 1
  | .wait n =>
    match s.sub with
    | .arm => waitCycles s.ticksPerMs.toNat n.toNat
    | .run => s.pollsLeft
    | .stop => 1

/-- Edges left of a command with the micro-steps `ms` (R178, R180). -/
def State.cyclesLeft (ms : List Micro) (s : State) : Nat :=
  match ms.drop s.step.toNat with
  | [] => 0
  | m :: rest => s.microLeft m + stepsCycles s.ticksPerMs.toNat rest

theorem cyclesLeft_of_micro {ms : List Micro} {m : Micro} {s : State} (hm : ms[s.step.toNat]? = some m) :
    s.cyclesLeft ms = s.microLeft m + stepsCycles s.ticksPerMs.toNat (ms.drop (s.step.toNat + 1)) := by
  obtain ⟨hlt, rfl⟩ := List.getElem?_eq_some_iff.mp hm
  rw [State.cyclesLeft, List.drop_eq_getElem_cons hlt]

/-- With no wait open, what is left is the cycles of the micro-steps from `STEP` on. -/
theorem cyclesLeft_of_arm {ms : List Micro} {s : State} (hsub : s.sub = .arm) :
    s.cyclesLeft ms = stepsCycles s.ticksPerMs.toNat (ms.drop s.step.toNat) := by
  unfold State.cyclesLeft
  cases ms.drop s.step.toNat with
  | nil => rfl
  | cons m rest => cases m <;> simp [State.microLeft, stepsCycles, microCycles, hsub]

theorem cyclesLeft_of_end {ms : List Micro} {s : State} (h : s.step.toNat = ms.length) : s.cyclesLeft ms = 0 := by
  rw [State.cyclesLeft, h, List.drop_length]

theorem microLeft_of_run {n : Count} {s : State} (hsub : s.sub = .run) : s.microLeft (.wait n) = s.pollsLeft := by
  simp [State.microLeft, hsub]

theorem microLeft_of_stop {n : Count} {s : State} (hsub : s.sub = .stop) : s.microLeft (.wait n) = 1 := by
  simp [State.microLeft, hsub]

theorem pollsLeft_of_zero {s : State} (h : s.mscnt = 0) : s.pollsLeft = 2 := by
  simp [State.pollsLeft, h]

theorem pollsLeft_of_flag {s : State} (h : s.mscnt ≠ 0) (hf : s.tifg = true) :
    s.pollsLeft = (s.mscnt.toNat - 1) * s.ticksPerMs.toNat + 3 := by
  rw [State.pollsLeft, if_neg h, if_pos hf]

theorem pollsLeft_of_clear {s : State} (h : s.mscnt ≠ 0) (hf : s.tifg = false) :
    s.pollsLeft = s.mscnt.toNat * s.ticksPerMs.toNat + 3 - s.tcnt.toNat := by
  rw [State.pollsLeft, if_neg h, if_neg (by simp [hf])]

/-! ## Each sub-step counts down by one -/

theorem pollsLeft_waitArm (n : Count) (s : State) :
    (waitArm n s).pollsLeft + 1 = waitCycles s.ticksPerMs.toNat n.toNat := by
  by_cases h : n = 0
  · rw [pollsLeft_of_zero h]
    simp [waitCycles, h]
  · have hn : n.toNat ≠ 0 := fun h0 => h (BitVec.eq_of_toNat_eq h0)
    rw [pollsLeft_of_clear h rfl]
    simp [waitCycles, hn]

/-- While a wait is polled the timer expires at the last value of its counter (R147). -/
theorem timerEdge_of_expiry {pre : State} (post : State) (hsub : pre.sub ≠ .arm) (hrun : pre.trun = true)
    (hc : pre.tcnt = pre.tper - 1) : timerEdge pre post = { post with tcnt := 0, tifg := true } := by
  simp [timerEdge, armedBetween, hsub, hrun, hc]

/-- Below it the timer counts (R147). -/
theorem timerEdge_of_count {pre : State} (post : State) (hsub : pre.sub ≠ .arm) (hrun : pre.trun = true)
    (hc : pre.tcnt ≠ pre.tper - 1) : timerEdge pre post = { post with tcnt := pre.tcnt + 1 } := by
  rw [timerEdge, if_neg (by simp [armedBetween, hsub]), if_pos hrun, if_neg hc]

/-- The edge at which a tick is counted: a cycle into the next millisecond, or on to the last poll. -/
theorem pollsLeft_after_tick {s t : State} (hpos : s.mscnt ≠ 0) (hflag : s.tifg = true)
    (hms : t.mscnt = s.mscnt - 1) (hclear : t.tifg = false) (hcnt : t.tcnt = 1)
    (hticks : t.ticksPerMs = s.ticksPerMs) : t.pollsLeft + 1 = s.pollsLeft := by
  have hsucc : s.mscnt.toNat = t.mscnt.toNat + 1 := by rw [hms]; bv_omega
  rw [pollsLeft_of_flag hpos hflag, hsucc, Nat.add_sub_cancel]
  by_cases hzero : t.mscnt = 0
  · rw [pollsLeft_of_zero hzero, hzero]
    simp
  · rw [pollsLeft_of_clear hzero hclear, hcnt, hticks]
    simp

/-- The edge at which the timer expires: the millisecond is over, its tick still to be counted. -/
theorem pollsLeft_after_expiry {s t : State} (hpos : s.mscnt ≠ 0) (hclear : s.tifg = false)
    (hms : t.mscnt = s.mscnt) (hflag : t.tifg = true) (hticks : t.ticksPerMs = s.ticksPerMs)
    (hcnt : s.tcnt.toNat + 1 = s.ticksPerMs.toNat) : t.pollsLeft + 1 = s.pollsLeft := by
  obtain ⟨k, hk⟩ : ∃ k, s.mscnt.toNat = k + 1 := ⟨s.mscnt.toNat - 1, by bv_omega⟩
  rw [pollsLeft_of_clear hpos hclear, pollsLeft_of_flag (hms ▸ hpos) hflag, hms, hticks, hk, Nat.succ_mul,
    Nat.add_sub_cancel]
  omega

/-- Any other edge at which a tick is awaited: one cycle of the millisecond. -/
theorem pollsLeft_after_count {s t : State} (hpos : s.mscnt ≠ 0) (hclear : s.tifg = false)
    (hms : t.mscnt = s.mscnt) (hclear' : t.tifg = false) (hticks : t.ticksPerMs = s.ticksPerMs)
    (hcnt : t.tcnt.toNat = s.tcnt.toNat + 1) (hlt : s.tcnt.toNat < s.ticksPerMs.toNat) :
    t.pollsLeft + 1 = s.pollsLeft := by
  obtain ⟨k, hk⟩ : ∃ k, s.mscnt.toNat = k + 1 := ⟨s.mscnt.toNat - 1, by bv_omega⟩
  rw [pollsLeft_of_clear hpos hclear, pollsLeft_of_clear (hms ▸ hpos) hclear', hms, hticks, hcnt, hk, Nat.succ_mul]
  omega

/-- A poll and the timer's turn are one cycle of the wait (R179). -/
theorem microLeft_timerEdge_waitRun {s : State} {n : Count} (hs : s.Inv) (hsub : s.sub = .run) :
    (timerEdge s (waitRun s)).microLeft (.wait n) + 1 = s.pollsLeft := by
  have hopen : s.sub ≠ .arm := by simp [hsub]
  have hrun : s.trun = true := hs.trun_of_sub hopen
  obtain ⟨hper, hlt⟩ := hs.period hrun
  have hrange := hs.ticksRange
  rcases waitRun_cases s with ⟨hzero, hw⟩ | ⟨hpos, hflag, hw⟩ | ⟨hpos, hclear, hw⟩
  · rw [pollsLeft_of_zero hzero, microLeft_of_stop (by simp [hw])]
  · have hzero : s.tcnt = 0 := hs.flagFresh hrun hflag
    have hc : s.tcnt ≠ s.tper - 1 := fun h => absurd (hs.tifg_of_expiring hrun h) (by simp [hflag])
    rw [microLeft_of_run (by simp [hw, hsub]), timerEdge_of_count _ hopen hrun hc, hw]
    exact pollsLeft_after_tick hpos hflag rfl rfl (by simp [hzero]) rfl
  · rw [microLeft_of_run (by simp [hw, hsub])]
    by_cases hc : s.tcnt = s.tper - 1
    · rw [timerEdge_of_expiry _ hopen hrun hc, hw]
      exact pollsLeft_after_expiry hpos hclear rfl rfl rfl (by rw [hc, hper]; bv_omega)
    · rw [timerEdge_of_count _ hopen hrun hc, hw]
      exact pollsLeft_after_count hpos hclear rfl hclear rfl (tcnt_succ_lt hlt (hper ▸ hc)).1 hlt

/-- The end of a micro-step leaves the cycles of those after it. -/
theorem cyclesLeft_of_completed {ms : List Micro} {s t : State} (hsub : t.sub = .arm)
    (hstep : t.step.toNat = s.step.toNat + 1) (hticks : t.ticksPerMs = s.ticksPerMs) :
    t.cyclesLeft ms = stepsCycles s.ticksPerMs.toNat (ms.drop (s.step.toNat + 1)) := by
  rw [cyclesLeft_of_arm hsub, hstep, hticks]

/-- An edge of a running command, with the timer's turn, takes one cycle of those left (R178 to R180). -/
theorem exec_cyclesLeft {s u : State} {i : Instr} (hs : s.Inv) (hp : s.ph = .exec) (hd : decode s.latched = .ok i)
    (hu : exec i s = .next u) :
    (timerEdge s u).cyclesLeft (microSteps i) + 1 = s.cyclesLeft (microSteps i) := by
  have hsucc := step_succ_toNat (hs.step_lt hp hd)
  rcases exec_next hu with ⟨ps, hm, rfl⟩ | ⟨n, hm, ⟨hsub, rfl⟩ | ⟨hsub, rfl⟩ | ⟨hsub, rfl⟩⟩
  · have hsub := hs.sub_of_body hp hd hm
    rw [cyclesLeft_of_micro hm, runBody_frame,
      cyclesLeft_of_completed (s := s) (by simpa using hsub) (by simpa using hsucc) (by simp), State.microLeft,
      Nat.add_comm]
  · rw [timerEdge_of_stopped _ (hs.trun_of_arm hsub), cyclesLeft_of_micro hm,
      cyclesLeft_of_micro (s := waitArm n s) hm, microLeft_of_run rfl]
    have hleft := pollsLeft_waitArm n s
    simp only [State.microLeft, hsub, waitArm_ticksPerMs, waitArm_step]
    omega
  · have hleft := microLeft_timerEdge_waitRun (n := n) hs hsub
    rw [cyclesLeft_of_micro hm, cyclesLeft_of_micro (s := timerEdge s (waitRun s)) (by simpa using hm),
      microLeft_of_run hsub]
    simp only [timerEdge_ticksPerMs, timerEdge_step, waitRun_ticksPerMs, waitRun_step]
    omega
  · rw [cyclesLeft_of_micro hm, microLeft_of_stop hsub,
      cyclesLeft_of_completed (s := s) (by simp) (by simpa using hsucc) (by simp), Nat.add_comm]

/-! ## Runs without reset -/

theorem noResetFor_succ {k : Nat} {s : State} (h : s.noResetFor (k + 1)) :
    s.nextInputs.rst = false ∧ ∀ t : State, t.inputs = s.inputs.tail → t.noResetFor k := by
  unfold State.noResetFor at h ⊢
  unfold State.nextInputs
  cases hin : s.inputs with
  | nil => exact ⟨rfl, fun t ht => by simp [ht]⟩
  | cons inp rest =>
    rw [hin, List.take_succ_cons] at h
    exact ⟨h inp List.mem_cons_self, fun t ht x hx => h x (List.mem_cons_of_mem inp (by simpa [ht] using hx))⟩

/-- One edge of a running block without reset: it completes, keeps the invariant and the latched word, and takes one of
the cycles left, and the block is idle only when none is left. -/
theorem step_running {s : State} {i : Instr} (hs : s.Inv) (hp : s.ph = .exec) (hd : decode s.latched = .ok i)
    (hr : s.nextInputs.rst = false) :
    ∃ t, step s = .next t ∧ t.Inv ∧ t.opl = s.opl ∧ t.argl = s.argl ∧
      t.cyclesLeft (microSteps i) + 1 = s.cyclesLeft (microSteps i) ∧
      (t.ph = .idle → t.cyclesLeft (microSteps i) = 0) := by
  have henv := hs.environment s.nextInputs
  have hlt : (environment s.nextInputs s).step.toNat < (microSteps i).length := hs.step_lt hp hd
  obtain ⟨u, hu⟩ := exec_completes hlt
  obtain ⟨hopl, hargl, -⟩ := exec_frame hu
  have hstep : step s = .next (timerEdge (environment s.nextInputs s) u) := by
    rw [step_exec hr hp hd, hu]
    rfl
  refine ⟨_, hstep, inv_step hs hstep, by simpa using hopl, by simpa using hargl, exec_cyclesLeft henv hp hd hu,
    fun hidle => cyclesLeft_of_end ?_⟩
  rw [timerEdge_step]
  exact (exec_idle_iff (s := environment s.nextInputs s) hp hlt hu).2.mp (timerEdge_ph _ u ▸ hidle)

/-- A running command is running for as many edges as it has cycles left, less the last. -/
theorem run_running {k : Nat} {s : State} {i : Instr} (hs : s.Inv) (hp : s.ph = .exec)
    (hd : decode s.latched = .ok i) (hk : k < s.cyclesLeft (microSteps i)) (hr : s.noResetFor k) :
    ∃ t, Host.Core.run Sys2Proof.core k s = .next t ∧ t.Inv ∧ t.ph = .exec ∧ t.opl = s.opl ∧ t.argl = s.argl ∧
      t.cyclesLeft (microSteps i) + k = s.cyclesLeft (microSteps i) := by
  induction k generalizing s with
  | zero => exact ⟨s, rfl, hs, hp, rfl, rfl, rfl⟩
  | succ k ih =>
    obtain ⟨hrst, hrest⟩ := noResetFor_succ hr
    obtain ⟨t, hstep, ht, hopl, hargl, hleft, hidle⟩ := step_running hs hp hd hrst
    have hpt : t.ph = .exec := by
      cases hph : t.ph with
      | exec => rfl
      | idle => have := hidle hph; omega
    have hdt : decode t.latched = .ok i := by rw [State.latched, hopl, hargl]; exact hd
    obtain ⟨t', hrun, ht', hp', hopl', hargl', hleft'⟩ :=
      ih ht hpt hdt (by omega) (hrest t (step_inputs hstep).1)
    exact ⟨t', (run_succ_of_step hstep).trans hrun, ht', hp', hopl'.trans hopl, hargl'.trans hargl, by omega⟩

/-- After its acceptance a command has all its cycles but one left (R178, R180). -/
theorem cyclesLeft_of_accepted {i : Instr} {s t : State} (hstep : t.step = 0) (hsub : t.sub = .arm)
    (hticks : t.ticksPerMs = s.ticksPerMs) :
    t.cyclesLeft (microSteps i) + 1 = commandCycles s.ticksPerMs.toNat i := by
  rw [cyclesLeft_of_arm hsub, hstep, hticks, commandCycles, Nat.add_comm]
  rfl

end Sys2Proof.Machine
end

section
/-! The statements of spec/10_state.md. -/

namespace Sys2Proof.Machine

/-- Settles O43: the parts of an edge each keep the invariant. -/
theorem stepKeepsInvariant : Obligations.StepKeepsInvariant := fun _ _ => inv_step

/-- Settles O10: an acceptance is `step_of_offers`, and neither the environment nor a running command looks at the
command lines. -/
theorem acceptanceLatchesTheOfferedWord : Obligations.AcceptanceLatchesTheOfferedWord := by
  refine ⟨fun s => by simp [State.cmdReady], fun s w i hready hw hd => ?_, fun s inp rest v op arg hp hin => ?_⟩
  · exact ⟨_, step_of_offers hready hw hd, by simp⟩
  · refine step_exec_congr hp hp ?_ rfl ?_
    · simp [State.nextInputs, hin]
    · simp [environment, Port.environment, State.nextInputs, hin]

/-- Settles O21: a command completes exactly below the length of its list. -/
theorem commandsCompleteAtEveryMicroStep : Obligations.CommandsCompleteAtEveryMicroStep := by
  intro s
  refine ⟨fun h0 => ?_, fun h8 b => ?_, fun i h => exec_beyond h⟩
  · have completes (i : Instr) : ∃ t, exec i s = .next t :=
      exec_completes (by rw [h0]; exact microSteps_length_pos i)
    exact ⟨fun v => completes _, fun v => completes _, fun n => completes _, completes _, fun n => completes _⟩
  · exact ⟨exec_completes (i := .sendi b) (Nat.lt_succ_of_le h8),
      exec_completes (i := .sendd b) (Nat.lt_succ_of_le h8)⟩

/-- Settles O30: the acceptance is one edge of the command's cycles, and at each of the others but the last the command
is running with cycles left. -/
theorem commandIsBusyUntilItsEnd : Obligations.CommandIsBusyUntilItsEnd := by
  intro s w i k hs hready hw hd hpos hk hr
  obtain ⟨k, rfl⟩ : ∃ j, k = j + 1 := ⟨k - 1, by omega⟩
  have hstep := step_of_offers hready hw hd
  have hdt : decode (commandWord w.op w.arg) = .ok i := by rwa [commandWord_op_arg]
  have hleft := cyclesLeft_of_accepted (i := i) (s := s)
    (t := timerEdge (environment s.nextInputs s) (accept w.op w.arg (environment s.nextInputs s)))
    (by simp) (by simp) (by simp)
  obtain ⟨t, hrun, -, hp, hopl, hargl, -⟩ := run_running (i := i) (inv_step hs hstep) (by simp)
    (by simpa [State.latched] using hdt) (by omega : k < _) ((noResetFor_succ hr).2 _ (by simp))
  exact ⟨t, (run_succ_of_step hstep).trans hrun, hp, by simp [State.cmdReady, hp], by simpa using hopl,
    by simpa using hargl⟩

/-- Settles O37: reset, acceptance and the environment leave `POUT[5:0]`, and in a command only `Flush()` writes it. -/
theorem onlyFlushChangesThePins : Obligations.OnlyFlushChangesThePins := by
  intro s t hwidth h hne
  rcases step_next h with ⟨-, rfl⟩ | ⟨-, -, -, -, rfl⟩ | ⟨-, -, -, rfl⟩ | ⟨-, hp, i, u, hd, hu, rfl⟩
  · exact absurd (by simp) hne
  · exact absurd (by simp) hne
  · exact absurd (by simp) hne
  · have hne' : u.pout.own ≠ (environment s.nextInputs s).pout.own := by simpa using hne
    obtain ⟨htrace, hown, hop⟩ := exec_own_ne (by simpa using hwidth) hu hne'
    rw [opl_eq_opcode hd, timerEdge_trace, timerEdge_pout]
    exact ⟨htrace, by simpa [State.v6] using hown, hp, hop⟩

/-- Settles O40: only a body writes a field of the control state, and a body that does has a statement writing it. -/
theorem controlStateWriters : Obligations.ControlStateWriters := by
  intro s t h hrst
  rcases step_next h with ⟨hr, -⟩ | ⟨-, -, -, -, rfl⟩ | ⟨-, -, -, rfl⟩ | ⟨-, hp, i, u, hd, hu, rfl⟩
  · exact absurd (hrst.symm.trans hr) (by simp)
  · simp
  · simp
  · rw [opl_eq_opcode hd, timerEdge_rs, timerEdge_en, timerEdge_nib]
    rcases exec_body_or_keeps hu with ⟨ps, hb, rfl⟩ | ⟨hrs, hen, hnib, -⟩
    · exact ⟨fun hne => ⟨hp, opcode_of_runBody_ne ownOpcode_of_rs_ne hb hne⟩,
        fun hne => ⟨hp, opcode_of_runBody_ne ownOpcode_of_en_ne hb hne⟩,
        fun hne => ⟨hp, opcode_of_runBody_ne ownOpcode_of_nib_ne hb hne⟩⟩
    · exact ⟨fun hne => absurd hrs hne, fun hne => absurd hen hne, fun hne => absurd hnib hne⟩

/-- Settles O41: an edge stays at its micro-step or completes it, and the lists have at most nine. -/
theorem stepIndexOnlyAdvances : Obligations.StepIndexOnlyAdvances := by
  intro s t hs h hrst hp
  rcases step_next h with ⟨hr, -⟩ | ⟨-, hidle, -⟩ | ⟨-, hidle, -⟩ | ⟨-, -, i, u, hd, hu, rfl⟩
  · exact absurd (hrst.symm.trans hr) (by simp)
  · exact absurd (hp.symm.trans hidle) (by simp)
  · exact absurd (hp.symm.trans hidle) (by simp)
  · have hlt := hs.step_lt hp hd
    obtain ⟨hle, hidle⟩ := exec_idle_iff (s := environment s.nextInputs s) hp hlt hu
    obtain ⟨hopl, hargl, -⟩ := exec_frame hu
    have hstep : u.step = s.step ∨ u.step.toNat = s.step.toNat + 1 :=
      (exec_stays_or_completes hu).imp And.left fun hdone => by rw [hdone.1]; exact step_succ_toNat hlt
    simp only [timerEdge_step, timerEdge_ph, timerEdge_opl, timerEdge_argl]
    exact ⟨hstep, hle.trans (microSteps_length_le i), i, hd, hidle, hopl, hargl⟩

/-- Settles O7: both reset states have the values written out, and `resetEdge` does not name `POUT`. -/
theorem resetValues : Obligations.ResetValues := by
  rintro s r (rfl | rfl)
  · simp
  · simp [State.reset]

/-- Settles O9: the block is idle after reset. -/
theorem resetSatisfiesInvariant : Obligations.ResetSatisfiesInvariant :=
  inv_of_idle (by simp [State.reset]) ticksPerMs_range rfl rfl rfl

/-- Settles O12: a reset or an acceptance overwrites the four registers, and the timer does not look at them. -/
theorem idleSequencerRegistersHaveNoEffect : Obligations.IdleSequencerRegistersHaveNoEffect := by
  intro s op arg st sub hp hedge
  generalize hs' : { s with opl := op, argl := arg, step := st, sub := sub } = s'
  have hinp : s'.nextInputs = s.nextInputs := by subst hs'; rfl
  have hp' : s'.ph = .idle := by subst hs'; exact hp
  cases hr : s.nextInputs.rst with
  | true =>
    rw [step_reset hr, step_reset (hinp ▸ hr)]
    subst hs'
    rfl
  | false =>
    have hv : s.nextInputs.cmdValid = true := by simpa [hr] using hedge
    rw [step_idle hr hp, step_idle (hinp ▸ hr) hp', hinp]
    subst hs'
    cases hd : decode (commandWord s.nextInputs.cmdOp s.nextInputs.cmdArg) with
    | ok i =>
      rw [idleEdge_of_command hv hd, idleEdge_of_command hv hd]
      exact congrArg Host.Outcome.next (timerEdge_congr rfl rfl rfl rfl)
    | error e =>
      simp [idleEdge, hv, hd, onNext]

/-- Settles O13: the running case of a step. -/
theorem stepRunsTheLatchedCommand : Obligations.StepRunsTheLatchedCommand :=
  fun _ _ hp hr hd _ => step_exec hr hp hd

/-- Settles O39: a driven pin is its port bit, and each edge takes `io_enable` from the environment. -/
theorem pinsShowThePort : Obligations.PinsShowThePort := by
  refine ⟨fun s i hio hi => ?_, fun s t h => (step_inputs h).2⟩
  rw [State.pins, if_pos hio, Port.getLsbD_own]
  simp [hi]

end Sys2Proof.Machine
end

section
/-! SUPPORT. Rules of spec/20_memory.md: a part of the port the block does not write, and values put together from their
bit fields. -/

namespace Sys2Proof.Machine

/-! ## Foreign bits -/

/-- `Flush()` is the only statement that writes the port, and its mask spares the foreign bits (R54, R104). -/
theorem runPrim_foreign_bit {k : Nat} (hk : 6 ≤ k) (p : Prim) (s : State) :
    (runPrim s p).pout.bit k = s.pout.bit k := by
  cases p with
  | writeRs _ | writeEn _ | writeNib _ => rfl
  | flush => simp [runPrim, Port.bit_writeOwn, Nat.not_lt.mpr hk]

theorem exec_foreign_bit {i : Instr} {s t : State} {k : Nat} (hk : 6 ≤ k) (h : exec i s = .next t) :
    t.pout.bit k = s.pout.bit k := by
  rcases exec_body_or_keeps h with ⟨ps, -, rfl⟩ | ⟨-, -, -, hpout⟩
  · exact runBody_keeps (f := fun s => s.pout.bit k) (fun p _ => runPrim_foreign_bit hk p) s
  · rw [hpout]

/-- Whatever the block does at an edge, a foreign bit is as the environment's turn left it (R59). -/
theorem step_foreign_bit {s t : State} {k : Nat} (hk : 6 ≤ k) (h : step s = .next t) :
    t.pout.bit k = (s.pout.environment s.nextInputs).bit k := by
  rcases step_next h with ⟨-, rfl⟩ | ⟨-, -, -, -, rfl⟩ | ⟨-, -, -, rfl⟩ | ⟨-, -, i, u, -, hu, rfl⟩
  · simp
  · simp
  · simp
  · rw [timerEdge_pout]
    exact exec_foreign_bit hk hu

/-! ## The six pins -/

/-- Two bit fields side by side, as a number. -/
theorem toNat_append_eq_add {m n : Nat} (x : BitVec m) (y : BitVec n) :
    (x ++ y).toNat = 2 ^ n * x.toNat + y.toNat := by
  rw [BitVec.toNat_append, ← Nat.shiftLeft_add_eq_or_of_lt y.isLt, Nat.shiftLeft_eq, Nat.mul_comm]

/-- The layout of R51: `RS`, `EN`, and the nibble from bit 2. -/
theorem getLsbD_pinValue (nib : Nibble) (en rs : BitVec 1) (k : Nat) :
    (pinValue nib en rs).getLsbD k =
      if k < 1 then rs.getLsbD k else if k < 2 then en.getLsbD (k - 1) else nib.getLsbD (k - 2) := by
  have hsecond : k - 1 < 1 ↔ k < 2 := by omega
  rw [pinValue, BitVec.getLsbD_append, BitVec.getLsbD_append, Nat.sub_sub]
  simp only [hsecond]

theorem toNat_pinValue (nib : Nibble) (en rs : BitVec 1) :
    (pinValue nib en rs).toNat = 4 * nib.toNat + 2 * en.toNat + rs.toNat := by
  rw [pinValue, toNat_append_eq_add, toNat_append_eq_add]
  omega

/-! ## The two nibbles of a byte -/

theorem highNibble_eq_extractLsb' (b : Byte) : highNibble b = b.extractLsb' 4 4 := by
  apply BitVec.eq_of_toNat_eq
  simpa [highNibble] using Nat.and_two_pow_sub_one_eq_mod (b.toNat >>> 4 % 16) 4

theorem lowNibble_eq_extractLsb' (b : Byte) : lowNibble b = b.extractLsb' 0 4 := by
  apply BitVec.eq_of_toNat_eq
  simpa [lowNibble] using Nat.and_two_pow_sub_one_eq_mod (b.toNat % 16) 4

/-- A transfer's two nibbles, high before low, are its byte (R52). -/
theorem highNibble_append_lowNibble (b : Byte) : highNibble b ++ lowNibble b = b := by
  rw [highNibble_eq_extractLsb', lowNibble_eq_extractLsb',
    BitVec.extractLsb'_append_extractLsb'_eq_extractLsb' (start₁ := 0) (len₁ := 4) rfl, BitVec.extractLsb'_eq_self]

end Sys2Proof.Machine
end

section
/-! The statements of spec/20_memory.md. -/

namespace Sys2Proof.Machine

/-- Settles O38: no part of the block's edge writes a foreign bit, and the environment's turn writes no other. -/
theorem foreignBitsBelongToTheEnvironment : Obligations.ForeignBitsBelongToTheEnvironment :=
  ⟨fun s _ k h hk hw => (step_foreign_bit hk h).trans (Port.bit_environment s.pout s.nextInputs k hk hw),
    fun p inp => ⟨Port.own_environment p inp, Port.width_environment p inp⟩⟩

/-- Settles O17: the layout bit by bit is `getLsbD_pinValue`, as a number `toNat_pinValue`. -/
theorem pinLayout : Obligations.PinLayout := by
  intro nib en rs
  have bit := getLsbD_pinValue nib en rs
  exact ⟨bit 0, bit 1, fun i _ => bit (i + 2), toNat_pinValue nib en rs⟩

/-- Settles O46: both nibbles are bit fields of the byte, and together they are all of it. -/
theorem nibblesMakeTheByte : Obligations.NibblesMakeTheByte := by
  intro b
  refine ⟨?_, highNibble_eq_extractLsb' b, lowNibble_eq_extractLsb' b⟩
  calc b.toNat = (highNibble b ++ lowNibble b).toNat := by rw [highNibble_append_lowNibble]
    _ = 16 * (highNibble b).toNat + (lowNibble b).toNat := toNat_append_eq_add _ _

end Sys2Proof.Machine
end

section
/-! SUPPORT. Rules of spec/30_encoding.md: the decoder by the two fields of a word, the operand bits of a word, the opcode
map as one row per command, what the assembler answers, and the machine on a reserved opcode. -/

namespace Sys2Proof

open Machine (op_eq_opcode_of_decode)

/-! ## The decoder by the two fields of a word -/

/-- The command of the same mnemonic with its operand taken from an argument (R71). -/
def Instr.withOperand (arg : Arg) : Instr → Instr
  | .setrs _ => .setrs (operandV arg)
  | .seten _ => .seten (operandV arg)
  | .setnib _ => .setnib (operandN arg)
  | .flush => .flush
  | .delay _ => .delay (operandCount arg)
  | .sendi _ => .sendi (operandB arg)
  | .sendd _ => .sendd (operandB arg)

/-- The opcode chooses the command and the argument its operand (R71, R72). -/
theorem decode_commandWord (i : Instr) (arg : Arg) :
    decode (commandWord i.opcode arg) = .ok (i.withOperand arg) := by
  unfold decode
  rw [CmdWord.op_commandWord, CmdWord.arg_commandWord]
  cases i <;> rfl

/-- A decoded command has the operand its word's argument gives. -/
theorem withOperand_of_decode {w : CmdWord} {i : Instr} (h : decode w = .ok i) : i.withOperand w.arg = i := by
  have hi := decode_commandWord i w.arg
  rw [← op_eq_opcode_of_decode h, commandWord_op_arg, h] at hi
  exact (Except.ok.inj hi).symm

/-- Every word is a command or has a reserved opcode (R73). -/
theorem decode_ok_or_reserved (w : CmdWord) : (∃ i, decode w = .ok i) ∨ w.op.toNat = 0 ∨ 8 ≤ w.op.toNat := by
  rw [decode_ok_iff]
  omega

/-- A reserved opcode is rejected by name (R73). -/
theorem decode_of_reserved {w : CmdWord} (h : w.op.toNat = 0 ∨ 8 ≤ w.op.toNat) :
    decode w = .error (.reservedOpcode w.op) := by
  unfold decode
  split
  case h_8 => rfl
  all_goals omega

/-! ## Operands and their bits -/

/-- A value that was widened is read back whole. -/
theorem extractLsb'_setWidth_self {k n : Nat} (x : BitVec k) (h : k ≤ n) : (x.setWidth n).extractLsb' 0 k = x := by
  rw [BitVec.extractLsb'_setWidth_of_le (by omega), BitVec.extractLsb'_eq_self]

/-- A command's operand is read back from its canonical argument. -/
theorem withOperand_argument (i : Instr) : i.withOperand i.argument = i := by
  cases i with
  | setrs v => exact congrArg Instr.setrs (extractLsb'_setWidth_self v (by decide))
  | seten v => exact congrArg Instr.seten (extractLsb'_setWidth_self v (by decide))
  | setnib n => exact congrArg Instr.setnib (extractLsb'_setWidth_self n (by decide))
  | flush | delay count => rfl
  | sendi b => exact congrArg Instr.sendi (extractLsb'_setWidth_self b (by decide))
  | sendd b => exact congrArg Instr.sendd (extractLsb'_setWidth_self b (by decide))

theorem decode_encode (i : Instr) : decode (encode i) = .ok i :=
  (decode_commandWord i i.argument).trans (congrArg Except.ok (withOperand_argument i))

/-- The low bits of a value, widened again, are the value under the mask of those bits. -/
theorem setWidth_extractLsb'_eq_and {n : Nat} (k : Nat) (x : BitVec n) :
    (x.extractLsb' 0 k).setWidth n = x &&& (BitVec.allOnes k).setWidth n := by
  apply BitVec.eq_of_getLsbD_eq
  intro j hj
  simp [hj, Bool.and_comm]

/-- The canonical argument of an operand read from `arg` is `arg` under the operand's mask (R71, R74). -/
theorem argument_withOperand (arg : Arg) (i : Instr) :
    (i.withOperand arg).argument = arg &&& (operandMask i.opcode).arg := by
  cases i with
  | setrs _ | seten _ => exact setWidth_extractLsb'_eq_and 1 arg
  | setnib _ => exact setWidth_extractLsb'_eq_and 4 arg
  | flush => exact BitVec.and_zero.symm
  | delay _ => exact BitVec.and_allOnes.symm
  | sendi _ | sendd _ => exact setWidth_extractLsb'_eq_and 8 arg

/-! ## Canonical words -/

/-- Clearing the `x` bits of a word leaves its opcode, and its argument under the operand's mask. -/
theorem clear_ignored_eq_commandWord (w : CmdWord) :
    w &&& (0xF0000 ||| operandMask w.op) = commandWord w.op (w.arg &&& (operandMask w.op).arg) := by
  have hmask : ∀ op : Opcode, 0xF0000 ||| operandMask op = commandWord (BitVec.allOnes 4) (operandMask op).arg := by
    decide
  conv_lhs => rw [← commandWord_op_arg w, CmdWord.op_commandWord, hmask]
  rw [commandWord, commandWord, BitVec.and_append, BitVec.and_allOnes]
  rfl

/-- The canonical word of a decoded command is its word with the `x` bits cleared (R74). -/
theorem encode_of_decode {w : CmdWord} {i : Instr} (h : decode w = .ok i) :
    encode i = w &&& (0xF0000 ||| operandMask w.op) := by
  rw [clear_ignored_eq_commandWord, op_eq_opcode_of_decode h, encode, ← argument_withOperand, withOperand_of_decode h]

theorem wf_of_decode {w : CmdWord} {i : Instr} (h : decode w = .ok i) : CmdWord.wf w = true := by
  rw [CmdWord.wf, Bool.and_eq_true, decide_eq_true_iff, decide_eq_true_iff]
  exact (decode_ok_iff w).mp ⟨i, h⟩

theorem canonical_encode (i : Instr) : CmdWord.canonical (encode i) = true := by
  have hd := decode_encode i
  rw [CmdWord.canonical, wf_of_decode hd, Bool.true_and, beq_iff_eq]
  exact (encode_of_decode hd).symm

/-- The decoder looks at the opcode and the operand bits only (R74). -/
theorem decode_operand_bits (w : CmdWord) : decode (commandWord w.op (w &&& operandMask w.op).arg) = decode w := by
  rcases decode_ok_or_reserved w with ⟨i, hd⟩ | hres
  · have harg : (w &&& operandMask w.op).arg = w.arg &&& (operandMask w.op).arg := BitVec.extractLsb'_and
    rw [harg, ← clear_ignored_eq_commandWord, ← encode_of_decode hd, decode_encode, hd]
  · rw [decode_of_reserved hres, decode_of_reserved (by rwa [CmdWord.op_commandWord]), CmdWord.op_commandWord]

/-! ## The opcode map -/

/-- The row of a command (R72). -/
def Instr.row (i : Instr) : OpcodeRow := ⟨i.mnemonic, commandWord i.opcode 0, 0xF0000⟩

/-- The map has one row for each of the seven commands, and no other. -/
theorem opcodeTable_eq_map :
    opcodeTable = [.setrs 0, .seten 0, .setnib 0, .flush, .delay 0, .sendi 0, .sendd 0].map Instr.row := rfl

theorem row_mem_opcodeTable (i : Instr) : i.row ∈ opcodeTable := by
  cases i <;> simp [opcodeTable_eq_map, Instr.row, Instr.mnemonic, Instr.opcode]

theorem exists_row_of_mem {r : OpcodeRow} (h : r ∈ opcodeTable) : ∃ i : Instr, i.row = r := by
  rw [opcodeTable_eq_map] at h
  obtain ⟨i, -, hi⟩ := List.mem_map.mp h
  exact ⟨i, hi⟩

/-- The match bits name the row. -/
theorem eq_of_matchBits_eq {r r' : OpcodeRow} (h : r ∈ opcodeTable) (h' : r' ∈ opcodeTable)
    (heq : r.matchBits = r'.matchBits) : r = r' := by
  have hall : ∀ r ∈ opcodeTable, ∀ r' ∈ opcodeTable, r.matchBits = r'.matchBits → r = r' := by decide
  exact hall r h r' h' heq

/-- The mnemonic names the row. -/
theorem eq_of_mnemonic_eq {r r' : OpcodeRow} (h : r ∈ opcodeTable) (h' : r' ∈ opcodeTable)
    (heq : r.mnemonic = r'.mnemonic) : r = r' := by
  have hall : ∀ r ∈ opcodeTable, ∀ r' ∈ opcodeTable, r.mnemonic = r'.mnemonic → r = r' := by decide
  exact hall r h r' h' heq

/-- The mask of the map leaves the opcode of a word. -/
theorem and_opcodeMask (w : CmdWord) : w &&& 0xF0000 = commandWord w.op 0 := by
  conv_lhs => rw [← commandWord_op_arg w, show (0xF0000 : CmdWord) = BitVec.allOnes 4 ++ (0 : Arg) by decide,
    commandWord, BitVec.and_append, BitVec.and_allOnes]
  exact congrArg (w.op ++ ·) BitVec.and_zero

/-- A word matches a command's row exactly when it has the command's opcode (R72). -/
theorem matches_row_iff (w : CmdWord) (i : Instr) :
    w &&& i.row.mask = i.row.matchBits ↔ w.op = i.opcode := by
  rw [Instr.row, and_opcodeMask]
  exact BitVec.append_left_inj 0

/-- The row does not look at the operand. -/
theorem row_withOperand (arg : Arg) (i : Instr) : (i.withOperand arg).row = i.row := by
  cases i <;> rfl

/-- Words with a command's opcode are the words that decode to a command with its row. -/
theorem op_eq_opcode_iff (w : CmdWord) (i : Instr) :
    w.op = i.opcode ↔ ∃ j, decode w = .ok j ∧ j.row = i.row := by
  constructor
  · intro hop
    have hd : decode w = .ok (i.withOperand w.arg) := by
      rw [← decode_commandWord, ← hop, commandWord_op_arg]
    exact ⟨_, hd, row_withOperand w.arg i⟩
  · rintro ⟨j, hd, hrow⟩
    exact (matches_row_iff w i).mp (hrow ▸ (matches_row_iff w j).mpr (op_eq_opcode_of_decode hd))

/-- Bit 16 of a word is bit 0 of its opcode (R70). -/
theorem extractLsb'_sixteen (w : CmdWord) : w.extractLsb' 16 1 = w.op.extractLsb' 0 1 := by
  rw [← BitVec.setWidth_eq_extractLsb' (by decide), CmdWord.op, BitVec.setWidth_extractLsb'_of_le (by decide)]

namespace Machine

/-- Every word of an assembled text is a command's canonical word (R74, R76). -/
theorem exists_encode_of_mem_assemble {lines : List (List Char)} {ws : List CmdWord} (h : assemble lines = .ok ws)
    {w : CmdWord} (hw : w ∈ ws) : ∃ i, w = encode i := by
  induction lines generalizing ws with
  | nil =>
    obtain rfl : [] = ws := Except.ok.inj h
    exact absurd hw List.not_mem_nil
  | cons line lines ih =>
    unfold assemble at h
    split at h
    · exact ih h hw
    · rename_i i ws' _ hrest
      obtain rfl : encode i :: ws' = ws := Except.ok.inj h
      rcases List.mem_cons.mp hw with rfl | hw
      · exact ⟨i, rfl⟩
      · exact ih hrest hw
    · exact absurd h (by simp)
    · exact absurd h (by simp)

/-- The first micro-step of a transfer writes its `RS` (R110). -/
theorem runMicro_sendSteps_rs (rs : BitVec 1) (b : Byte) {s : State} (h : s.step = 0) :
    ∃ t, runMicro (sendSteps rs b) s = .next t ∧ t.rs = rs := by
  have hm : (sendSteps rs b)[s.step.toNat]? =
      some (.body [.writeRs rs, .writeEn 0, .writeNib (highNibble b), .flush]) := by
    rw [h]
    rfl
  exact ⟨_, runMicro_of_body hm, rfl⟩

/-! ## The machine and a word with a reserved opcode -/

/-- A ready block refuses a reserved opcode it is offered, by name (R73). -/
theorem step_of_reserved {s : State} {w : CmdWord} (hready : s.cmdReady = true) (hw : s.offers w)
    (hres : w.op.toNat = 0 ∨ 8 ≤ w.op.toNat) : step s = .refused (.reservedOpcode w.op) := by
  obtain ⟨hv, rfl⟩ := hw
  obtain ⟨hp, hr⟩ : s.ph = .idle ∧ s.nextInputs.rst = false := by simpa [State.cmdReady] using hready
  rw [step_idle hr hp]
  simp [idleEdge, hv, decode_of_reserved hres, onNext]

/-- An idle block with nothing offered has a next state (R151). -/
theorem step_of_no_command {s : State} (hr : s.nextInputs.rst = false) (hp : s.ph = .idle)
    (hv : s.nextInputs.cmdValid = false) :
    step s = .next (timerEdge (environment s.nextInputs s) (environment s.nextInputs s)) := by
  rw [step_idle hr hp]
  simp [idleEdge, hv, onNext]

/-! ## A table word as the next command -/

theorem decode_of_decodeTableWord {nbits w : Nat} {i : Instr} (h : decodeTableWord nbits w = some i) :
    decode (BitVec.ofNat 20 (w % 2 ^ nbits)) = .ok i := by
  unfold decodeTableWord at h
  split at h
  · split at h
    · rename_i j hd
      rwa [Option.some.inj h] at hd
    · exact absurd h (by simp)
  · exact absurd h (by simp)

theorem withFetchWord_latched (s : State) (nbits w : Nat) :
    (s.withFetchWord nbits w).latched = BitVec.ofNat 20 (w % 2 ^ nbits) :=
  commandWord_op_arg _

theorem withFetchWord_rst (s : State) (nbits w : Nat) : (s.withFetchWord nbits w).nextInputs.rst = false := by
  show ((releaseReset s.inputs).headD (Inputs.quiet s.ioEnable)).rst = false
  cases s.inputs <;> rfl

/-! ## The timed pin trace of a transfer -/

/-- The layout of R51 as shifts. -/
theorem pinValue_eq_shiftLeft_or (nib : Nibble) (en rs : BitVec 1) :
    pinValue nib en rs = nib.setWidth 6 <<< 2 ||| en.setWidth 6 <<< 1 ||| rs.setWidth 6 :=
  (BitVec.setWidth_eq _).symm.trans BitVec.setWidth_append_append_eq_shiftLeft_setWidth_or

/-- Each value but the last of a transfer stays for the one tick of the wait after it (R79, R110). -/
theorem timedPinTrace_sendEvents (rs : BitVec 1) (b : Byte) :
    timedPinTrace (sendEvents rs b) =
      [ (pinValue (highNibble b) 0 rs, 1), (pinValue (highNibble b) 1 rs, 1),
        (pinValue (lowNibble b) 0 rs, 1), (pinValue (lowNibble b) 1 rs, 1), (pinValue (lowNibble b) 0 rs, 0) ] := rfl

end Machine

end Sys2Proof
end

section
/-! The statements of spec/30_encoding.md. -/

namespace Sys2Proof.Machine

/-- Settles O1: the operand is read back from the canonical argument, and clearing the `x` bits of a canonical word
changes nothing. -/
theorem decodeInvertsEncode : Obligations.DecodeInvertsEncode :=
  fun i _ => ⟨decode_encode i, canonical_encode i⟩

/-- Settles O2: `decode_commandWord` for each command; the operands are bit fields from bit 0. -/
theorem operandsAreLowArgumentBits : Obligations.OperandsAreLowArgumentBits := by
  intro arg
  have low {n k : Nat} (h : k < n) : (arg.extractLsb' 0 n).getLsbD k = arg.getLsbD k := by simp [h]
  exact ⟨⟨operandV arg, decode_commandWord (.setrs 0) arg, fun _ => low⟩,
    ⟨operandV arg, decode_commandWord (.seten 0) arg, fun _ => low⟩,
    ⟨operandN arg, decode_commandWord (.setnib 0) arg, fun _ => low⟩,
    decode_commandWord .flush arg,
    ⟨operandCount arg, decode_commandWord (.delay 0) arg, fun _ _ => rfl⟩,
    ⟨operandB arg, decode_commandWord (.sendi 0) arg, fun _ => low⟩,
    ⟨operandB arg, decode_commandWord (.sendd 0) arg, fun _ => low⟩⟩

/-- Settles O3: a row is a command's, and a word matches it exactly when it has the command's opcode. -/
theorem decoderAgreesWithOpcodeMap : Obligations.DecoderAgreesWithOpcodeMap := by
  refine ⟨fun w r hr => ?_, fun w r hr r' hr' hw hw' => ?_, fun w i b hd hi s hs => ?_⟩
  · obtain ⟨i, rfl⟩ := exists_row_of_mem hr
    rw [matches_row_iff, op_eq_opcode_iff]
    refine exists_congr fun j => and_congr_right fun _ => ⟨congrArg OpcodeRow.mnemonic, ?_⟩
    exact eq_of_mnemonic_eq (row_mem_opcodeTable j) (row_mem_opcodeTable i)
  · obtain ⟨i, rfl⟩ := exists_row_of_mem hr
    obtain ⟨j, rfl⟩ := exists_row_of_mem hr'
    exact eq_of_matchBits_eq hr hr' (hw.symm.trans hw')
  · rw [extractLsb'_sixteen, op_eq_opcode_of_decode hd, exec_eq_runMicro]
    rcases hi with rfl | rfl
    · simpa [microSteps, Instr.opcode] using runMicro_sendSteps_rs 0 b hs
    · simpa [microSteps, Instr.opcode] using runMicro_sendSteps_rs 1 b hs

/-- Settles O4: the decoder looks at the opcode and the operand bits, and the assembler answers canonical words. -/
theorem ignoredBitsAndCanonicalWords : Obligations.IgnoredBitsAndCanonicalWords := by
  refine ⟨fun w w' hop hbits => ?_, fun w i => encode_of_decode, fun lines ws h w hw => ?_⟩
  · rw [← decode_operand_bits w, ← decode_operand_bits w', ← hop, hbits]
  · obtain ⟨i, rfl⟩ := exists_encode_of_mem_assemble h hw
    exact canonical_encode i

/-- Settles O44: a reset, an idle edge and an edge of a running command complete; so does an offer to a ready block, but
for a reserved opcode. -/
theorem onlyReservedOpcodesStopTheMachine : Obligations.OnlyReservedOpcodesStopTheMachine := by
  intro s hs
  cases hr : s.nextInputs.rst with
  | true => exact .inl ⟨_, step_reset hr⟩
  | false =>
    cases hp : s.ph with
    | exec =>
      obtain ⟨i, hd, -⟩ := hs.running hp
      obtain ⟨t, ht, -⟩ := step_running hs hp hd hr
      exact .inl ⟨t, ht⟩
    | idle =>
      cases hv : s.nextInputs.cmdValid with
      | false => exact .inl ⟨_, step_of_no_command hr hp hv⟩
      | true =>
        have hready : s.cmdReady = true := by simp [State.cmdReady, hp, hr]
        have hw : s.offers (commandWord s.nextInputs.cmdOp s.nextInputs.cmdArg) := ⟨hv, rfl⟩
        rcases decode_ok_or_reserved (commandWord s.nextInputs.cmdOp s.nextInputs.cmdArg) with ⟨i, hd⟩ | hres
        · exact .inl ⟨_, step_of_offers hready hw hd⟩
        · exact .inr ⟨hready, _, hw, hres, step_of_reserved hready hw hres⟩

/-- Settles O5: the decoder answers a command or rejects a reserved opcode, and an idle block asks the decoder. -/
theorem reservedOpcodesAreRefused : Obligations.ReservedOpcodesAreRefused := by
  refine ⟨fun w => ⟨fun h => (decode_ok_or_reserved w).resolve_left ?_, decode_of_reserved⟩,
    fun s w hres hready hw => step_of_reserved hready hw hres⟩
  rintro ⟨i, hd⟩
  exact absurd (h.symm.trans hd) (by simp)

/-- Settles O6: the decoder computes the nine answers. -/
theorem sampleWordsDecode : Obligations.SampleWordsDecode := by
  unfold Obligations.SampleWordsDecode
  decide

/-- Settles O14: the placed word is the latched command, and reset is released. -/
theorem fetchWordRunsNext : Obligations.FetchWordRunsNext := by
  intro s nbits w i h
  have hd : decode (s.withFetchWord nbits w).latched = .ok i := by
    rw [withFetchWord_latched]
    exact decode_of_decodeTableWord h
  exact step_exec (withFetchWord_rst s nbits w) rfl hd

/-- Settles O33: the events fold by `timedPinTrace_sendEvents`, and a pin value is its shifted fields. -/
theorem transferTimedPinTrace : Obligations.TransferTimedPinTrace := by
  intro s b i rs hi
  obtain ⟨v, hevents, rfl⟩ : ∃ v : BitVec 1, commandEvents s i = sendEvents v b ∧ v.setWidth 6 = rs := by
    rcases hi with ⟨rfl, rfl⟩ | ⟨rfl, rfl⟩
    · exact ⟨0, rfl, rfl⟩
    · exact ⟨1, rfl, rfl⟩
  rw [hevents, timedPinTrace_sendEvents, highNibble_eq_extractLsb', lowNibble_eq_extractLsb']
  simp [pinValue_eq_shiftLeft_or]

end Sys2Proof.Machine
end

section
/-! SUPPORT. What a command makes of the part of the state its rule speaks of (spec/40_delay.md R90,
spec/41_mirror_flush.md R100 to R104, spec/42_transmitter.md R110 to R112), told without clock edges. -/

namespace Sys2Proof.Machine

/-- The part of the state the rule of a command speaks of: the control state, `POUT[5:0]` and the trace. -/
structure Visible where
  rs : BitVec 1
  en : BitVec 1
  nib : Nibble
  own : Pins
  trace : List Event

def State.visible (s : State) : Visible := ⟨s.rs, s.en, s.nib, s.pout.own, s.trace⟩

/-- One statement of a body (R100 to R104). -/
def Visible.prim (v : Visible) : Prim → Visible
  | .writeRs x => { v with rs := x }
  | .writeEn x => { v with en := x }
  | .writeNib n => { v with nib := n }
  | .flush => { v with own := pinValue v.nib v.en v.rs, trace := v.trace ++ [.out (pinValue v.nib v.en v.rs)] }

/-- One micro-step: its body, or the events of its wait (R90, R91). -/
def Visible.micro (v : Visible) : Micro → Visible
  | .body ps => ps.foldl Visible.prim v
  | .wait n => { v with trace := v.trace ++ waitEvents n.toNat }

theorem visible_runPrim {s : State} (hwidth : 6 ≤ s.pout.width) (p : Prim) :
    (runPrim s p).visible = s.visible.prim p := by
  cases p with
  | writeRs _ | writeEn _ | writeNib _ => rfl
  | flush => simp [State.visible, Visible.prim, runPrim, Port.own_writeOwn _ _ hwidth, State.v6]

theorem visible_runBody {s : State} (hwidth : 6 ≤ s.pout.width) (ps : List Prim) :
    (runBody ps s).visible = s.visible.micro (.body ps) := by
  induction ps generalizing s with
  | nil => rfl
  | cons p ps ih =>
    have hwidth' : 6 ≤ (runPrim s p).pout.width := by cases p <;> exact hwidth
    rw [runBody_cons, ih hwidth', visible_runPrim hwidth]
    rfl

/-- The micro-steps of a command, one after the other, are what its rule says of the whole command (R90, R100 to R103,
R111, R112, R116). -/
theorem visible_microSteps (i : Instr) (s : State) :
    (microSteps i).foldl Visible.micro s.visible =
      ⟨commandRs s i, commandEn s i, commandNib s i, commandOwn s i, s.trace ++ commandEvents s i⟩ := by
  cases i with
  | flush | delay _ => rfl
  | setrs _ | seten _ | setnib _ =>
    simp [microSteps, setrsSteps, setenSteps, setnibSteps, Visible.micro, Visible.prim, State.visible, commandRs,
      commandEn, commandNib, commandOwn, commandEvents]
  | sendi _ | sendd _ =>
    simp [microSteps, sendSteps, Visible.micro, Visible.prim, State.visible, commandRs, commandEn, commandNib,
      commandOwn, commandEvents, sendEvents]

theorem outs_append (es fs : List Event) : outs (es ++ fs) = outs es ++ outs fs := by
  induction es with
  | nil => rfl
  | cons e es ih => cases e <;> simp [outs, ih]

theorem outs_replicate_tick (n : Nat) : outs (List.replicate n .tick) = [] := by
  induction n with
  | zero => rfl
  | succ n ih => exact ih

end Sys2Proof.Machine
end

section
/-! SUPPORT. The clock edges of one wait (spec/40_delay.md R91, R93, spec/70_reset_and_hazards.md R179), and the runs made
of them. -/

namespace Sys2Proof.Machine

/-! ## Polls, and runs without reset -/

theorem waitRun_of_zero {s : State} (hzero : s.mscnt = 0) : waitRun s = { s with sub := .stop } := by
  simp [waitRun, hzero]

theorem waitRun_of_tick {s : State} (hpos : s.mscnt ≠ 0) (hflag : s.tifg = true) :
    waitRun s = { s with tifg := false, mscnt := s.mscnt - 1, trace := s.trace ++ [.tick] } := by
  rw [waitRun, if_neg hpos, if_pos hflag]
  rfl

theorem waitRun_of_clear {s : State} (hpos : s.mscnt ≠ 0) (hclear : s.tifg = false) : waitRun s = s := by
  rw [waitRun, if_neg hpos, if_neg (by simp [hclear])]

theorem noResetFor_add {j k : Nat} {s : State} (h : s.noResetFor (j + k)) :
    s.noResetFor j ∧ ∀ t : State, t.inputs = s.inputs.drop j → t.noResetFor k := by
  unfold State.noResetFor at h ⊢
  rw [List.take_add] at h
  exact ⟨fun x hx => h x (List.mem_append_left _ hx), fun t ht x hx => h x (List.mem_append_right _ (ht ▸ hx))⟩

/-- The first edge of a run. -/
theorem step_of_run_succ {k : Nat} {s t : State} (h : Host.Core.run Sys2Proof.core (k + 1) s = .next t) :
    ∃ u, step s = .next u ∧ Host.Core.run Sys2Proof.core k u = .next t := by
  cases hs : step s with
  | next u => exact ⟨u, rfl, (run_succ_of_step hs).symm.trans h⟩
  | fault r => simp [Host.Core.run, show Sys2Proof.core.step s = .fault r from hs] at h
  | refused r => simp [Host.Core.run, show Sys2Proof.core.step s = .refused r from hs] at h

/-- A run takes one record from the inputs at each edge. -/
theorem run_inputs {k : Nat} {s t : State} (h : Host.Core.run Sys2Proof.core k s = .next t) :
    t.inputs = s.inputs.drop k := by
  induction k generalizing s with
  | zero => rw [← Host.Outcome.next.inj h, List.drop_zero]
  | succ k ih =>
    obtain ⟨u, hu, hrest⟩ := step_of_run_succ h
    rw [ih hrest, (step_inputs hu).1, List.drop_tail]

/-! ## An edge of a running command, as an equation -/

theorem step_of_exec {s u : State} {i : Instr} (hr : s.nextInputs.rst = false) (hp : s.ph = .exec)
    (hd : decode s.latched = .ok i) (hu : exec i (environment s.nextInputs s) = .next u) :
    step s = .next (timerEdge (environment s.nextInputs s) u) := by
  rw [step_exec hr hp hd, hu]
  rfl

section
variable {s : State} {i : Instr} {n : Count} (hr : s.nextInputs.rst = false) (hp : s.ph = .exec)
  (hd : decode s.latched = .ok i) (hm : (microSteps i)[s.step.toNat]? = some (.wait n))
include hr hp hd hm

/-- `ARM` at a clock edge: its writes win over the timer's (R147). -/
theorem step_arm (hsub : s.sub = .arm) : step s = .next (waitArm n (environment s.nextInputs s)) := by
  rw [step_of_exec hr hp hd ((exec_eq_runMicro i _).trans (runMicro_of_arm (s := environment _ s) hm hsub)), timerEdge,
    if_pos (by simp [armedBetween, hsub])]

/-- A poll at a clock edge. -/
theorem step_poll (hsub : s.sub = .run) :
    step s = .next (timerEdge (environment s.nextInputs s) (waitRun (environment s.nextInputs s))) :=
  step_of_exec hr hp hd ((exec_eq_runMicro i _).trans (runMicro_of_run (s := environment _ s) hm hsub))

/-- `STOP` at a clock edge. -/
theorem step_stop (hsub : s.sub = .stop) :
    step s = .next (timerEdge (environment s.nextInputs s)
      (completeStep (microSteps i).length (waitStop (environment s.nextInputs s)))) :=
  step_of_exec hr hp hd ((exec_eq_runMicro i _).trans (runMicro_of_stop (s := environment _ s) hm hsub))

end

/-! ## A micro-step and its end -/

/-- The block, in a state with the invariant, runs the command `i` and stands at its micro-step `m` (R26). -/
structure RunsMicro (i : Instr) (m : Micro) (s : State) : Prop where
  inv : s.Inv
  exec : s.ph = .exec
  decoded : decode s.latched = .ok i
  micro : (microSteps i)[s.step.toNat]? = some m

/-- An open wait is a wait of the running command (R26, R91). -/
theorem State.Inv.exists_runsMicro {s : State} (hs : s.Inv) (hsub : s.sub ≠ .arm) :
    ∃ i n, RunsMicro i (.wait n) s := by
  have hp : s.ph = .exec := by
    cases hph : s.ph with
    | exec => rfl
    | idle => exact absurd (hs.idleSub hph) hsub
  obtain ⟨i, hd, -, hwait⟩ := hs.running hp
  obtain ⟨n, hm, -⟩ := hwait hsub
  exact ⟨i, n, hs, hp, hd, hm⟩

/-- `t` is a state at the same micro-step as `s`. -/
structure SameMicro (s t : State) : Prop where
  step : t.step = s.step
  latched : t.latched = s.latched
  ticksPerMs : t.ticksPerMs = s.ticksPerMs

/-- `t` is a state in which the micro-step of `i` at which `s` stands has just ended (R26, R91). -/
structure EndsMicro (i : Instr) (s t : State) : Prop where
  inv : t.Inv
  latched : t.latched = s.latched
  step : t.step = s.step + 1
  ph : t.ph = if s.step.toNat + 1 = (microSteps i).length then .idle else .exec
  sub : t.sub = .arm
  ticksPerMs : t.ticksPerMs = s.ticksPerMs

theorem SameMicro.refl (s : State) : SameMicro s s := ⟨rfl, rfl, rfl⟩

theorem SameMicro.trans {s t u : State} (h : SameMicro s t) (h' : SameMicro t u) : SameMicro s u :=
  ⟨h'.step.trans h.step, h'.latched.trans h.latched, h'.ticksPerMs.trans h.ticksPerMs⟩

theorem SameMicro.ends {s t u : State} {i : Instr} (h : SameMicro s t) (h' : EndsMicro i t u) :
    EndsMicro i s u where
  inv := h'.inv
  latched := h'.latched.trans h.latched
  step := by rw [h'.step, h.step]
  ph := by rw [h'.ph, h.step]
  sub := h'.sub
  ticksPerMs := h'.ticksPerMs.trans h.ticksPerMs

/-- What will be visible at the end of the open wait: the ticks still to be counted and the `Disarm` stand for it in
the trace (R91). -/
def State.waitVisible (s : State) : Visible :=
  { s.visible with trace := s.trace ++ (List.replicate s.mscnt.toNat .tick ++ [.disarm]) }

theorem waitVisible_timerEdge (pre post : State) : (timerEdge pre post).waitVisible = post.waitVisible := by
  simp [State.waitVisible, State.visible]

theorem waitVisible_environment (inp : Inputs) (s : State) : (environment inp s).waitVisible = s.waitVisible := by
  simp [State.waitVisible, State.visible]

/-- `ARM` puts the whole wait in view. -/
theorem waitVisible_waitArm (n : Count) (s : State) : (waitArm n s).waitVisible = s.visible.micro (.wait n) := by
  simp [State.waitVisible, State.visible, Visible.micro, waitEvents]

/-- A poll that counts a tick moves it from what is in view to the trace. -/
theorem waitVisible_waitRun (s : State) : (waitRun s).waitVisible = s.waitVisible := by
  rcases waitRun_cases s with ⟨-, hw⟩ | ⟨hpos, -, hw⟩ | ⟨-, -, hw⟩
  · rw [hw]; rfl
  · have hsucc : s.mscnt.toNat = (s.mscnt - 1).toNat + 1 := by bv_omega
    rw [hw, State.waitVisible, State.waitVisible, hsucc, List.replicate_succ]
    simp [State.visible]
  · rw [hw]

/-! ## The edges of a micro-step -/

section
variable {s : State} {i : Instr} {n : Count}

/-- After `ARM` a wait has all its cycles but one left (R179). -/
theorem RunsMicro.armed (h : RunsMicro i (.wait n) s) (hsub : s.sub = .arm) (hr : s.nextInputs.rst = false) :
    ∃ t, step s = .next t ∧ RunsMicro i (.wait n) t ∧ t.sub ≠ .arm ∧ SameMicro s t ∧
      t.waitVisible = s.visible.micro (.wait n) ∧
      t.microLeft (.wait n) + 1 = waitCycles s.ticksPerMs.toNat n.toNat := by
  have hstep := step_arm hr h.exec h.decoded h.micro hsub
  refine ⟨_, hstep, ⟨inv_step h.inv hstep, h.exec, h.decoded, h.micro⟩, by simp, ⟨rfl, rfl, rfl⟩, ?_,
    pollsLeft_waitArm n _⟩
  rw [waitVisible_waitArm]
  simp [State.visible]

/-- A poll takes one cycle of the open wait. -/
theorem RunsMicro.polled (h : RunsMicro i (.wait n) s) (hsub : s.sub = .run) (hr : s.nextInputs.rst = false) :
    ∃ t, step s = .next t ∧ RunsMicro i (.wait n) t ∧ t.sub ≠ .arm ∧ SameMicro s t ∧ t.waitVisible = s.waitVisible ∧
      t.microLeft (.wait n) + 1 = s.microLeft (.wait n) := by
  have hstep := step_poll hr h.exec h.decoded h.micro hsub
  refine ⟨_, hstep, ⟨inv_step h.inv hstep, ?_, ?_, ?_⟩, ?_, ⟨?_, ?_, ?_⟩, ?_, ?_⟩
  · simpa using h.exec
  · simpa [State.latched] using h.decoded
  · simpa using h.micro
  · simpa using waitRun_sub_ne_arm (s := environment s.nextInputs s) hsub
  · simp
  · simp [State.latched]
  · simp
  · rw [waitVisible_timerEdge, waitVisible_waitRun, waitVisible_environment]
  · rw [microLeft_timerEdge_waitRun (h.inv.environment _) hsub, microLeft_of_run hsub]
    rfl

/-- `STOP` ends the wait, and what was in view is visible (R91). -/
theorem RunsMicro.stopped (h : RunsMicro i (.wait n) s) (hsub : s.sub = .stop) (hr : s.nextInputs.rst = false) :
    ∃ t, step s = .next t ∧ EndsMicro i s t ∧ t.visible = s.waitVisible ∧ t.mscnt = 0 ∧ t.tper = s.ticksPerMs := by
  have hstep := step_stop hr h.exec h.decoded h.micro hsub
  have hzero : s.mscnt = 0 := h.inv.stopZero hsub
  have hper : s.tper = s.ticksPerMs := (h.inv.period (h.inv.trun_of_sub (by simp [hsub]))).1
  refine ⟨_, hstep, ⟨inv_step h.inv hstep, by simp [State.latched], by simp, ?_, by simp, by simp⟩, ?_, ?_, ?_⟩
  · simp [h.exec]
  · simp [State.visible, State.waitVisible, hzero]
  · simpa using hzero
  · simpa using hper

/-- A body is one edge, at which the timer is stopped (R148, R178). -/
theorem RunsMicro.body_ran {ps : List Prim} (h : RunsMicro i (.body ps) s) (hr : s.nextInputs.rst = false) :
    ∃ t, step s = .next t ∧ EndsMicro i s t ∧ t.visible = s.visible.micro (.body ps) := by
  have hstep := step_of_exec hr h.exec h.decoded
    ((exec_eq_runMicro i _).trans (runMicro_of_body (s := environment s.nextInputs s) h.micro))
  have hsub : s.sub = .arm := h.inv.sub_of_body h.exec h.decoded h.micro
  have hvisible := visible_runBody (s := environment s.nextInputs s) (by simpa using h.inv.portWide) ps
  have hframe := runBody_frame ps (environment s.nextInputs s)
  refine ⟨_, hstep, ⟨inv_step h.inv hstep, ?_, ?_, ?_, ?_, by simp⟩, ?_⟩
  · rw [hframe]; simp [State.latched]
  · rw [hframe]; simp
  · rw [hframe]; simp [h.exec]
  · rw [hframe]; simp [hsub]
  · simpa [State.visible] using hvisible

/-- An open wait has a cycle left. -/
theorem RunsMicro.microLeft_pos (h : RunsMicro i (.wait n) s) (hsub : s.sub ≠ .arm) :
    0 < s.microLeft (.wait n) := by
  cases hs : s.sub with
  | arm => exact absurd hs hsub
  | run =>
    rw [microLeft_of_run hs, ← microLeft_timerEdge_waitRun (n := n) h.inv hs]
    exact Nat.succ_pos _
  | stop => simp [microLeft_of_stop hs]

end

/-! ## The runs made of them -/

/-- A run of polls, of any length before `STOP` (R93, R179). -/
theorem RunsMicro.run_polls {s : State} {i : Instr} {n : Count} {k : Nat} (h : RunsMicro i (.wait n) s)
    (hsub : s.sub ≠ .arm) (hk : k < s.microLeft (.wait n)) (hr : s.noResetFor k) :
    ∃ t, Host.Core.run Sys2Proof.core k s = .next t ∧ RunsMicro i (.wait n) t ∧ t.sub ≠ .arm ∧ SameMicro s t ∧
      t.waitVisible = s.waitVisible ∧ t.microLeft (.wait n) + k = s.microLeft (.wait n) := by
  induction k generalizing s with
  | zero => exact ⟨s, rfl, h, hsub, .refl s, rfl, rfl⟩
  | succ k ih =>
    have hrun : s.sub = .run := by
      cases hs : s.sub with
      | arm => exact absurd hs hsub
      | run => rfl
      | stop => rw [microLeft_of_stop hs] at hk; omega
    obtain ⟨hrst, hrest⟩ := noResetFor_succ hr
    obtain ⟨u, hstep, hu, husub, hsame, hvisible, hleft⟩ := h.polled hrun hrst
    obtain ⟨t, hrun', ht, htsub, hsame', hvisible', hleft'⟩ :=
      ih hu husub (by omega) (hrest u (step_inputs hstep).1)
    exact ⟨t, (run_succ_of_step hstep).trans hrun', ht, htsub, hsame.trans hsame', hvisible'.trans hvisible, by omega⟩

/-- The last cycle of a wait is `STOP`: a poll leaves the wait open. -/
theorem RunsMicro.sub_stop {s : State} {i : Instr} {n : Count} (h : RunsMicro i (.wait n) s)
    (hsub : s.sub ≠ .arm) (hleft : s.microLeft (.wait n) = 1) (hr : s.nextInputs.rst = false) : s.sub = .stop := by
  cases hs : s.sub with
  | arm => exact absurd hs hsub
  | stop => rfl
  | run =>
    obtain ⟨t, -, ht, htsub, -, -, hnext⟩ := h.polled hs hr
    have := ht.microLeft_pos htsub
    omega

/-- A wait begun at `ARM` ends after exactly its cycles (R91, R179). -/
theorem RunsMicro.run_wait {s : State} {i : Instr} {n : Count} (h : RunsMicro i (.wait n) s)
    (hsub : s.sub = .arm) (hr : s.noResetFor (waitCycles s.ticksPerMs.toNat n.toNat)) :
    ∃ t, Host.Core.run Sys2Proof.core (waitCycles s.ticksPerMs.toNat n.toNat) s = .next t ∧ EndsMicro i s t ∧
      t.visible = s.visible.micro (.wait n) ∧ t.mscnt = 0 ∧ t.tper = s.ticksPerMs := by
  obtain ⟨k, hk⟩ : ∃ k, waitCycles s.ticksPerMs.toNat n.toNat = k + 1 + 1 :=
    ⟨waitCycles s.ticksPerMs.toNat n.toNat - 2, by unfold waitCycles; split_ifs <;> omega⟩
  rw [hk] at hr ⊢
  obtain ⟨hrst, hrest⟩ := noResetFor_succ hr
  obtain ⟨u, hstep, hu, husub, hsame, hvisible, hleft⟩ := h.armed hsub hrst
  obtain ⟨hpolls, hlast⟩ := noResetFor_add (hrest u (step_inputs hstep).1)
  obtain ⟨v, hrun, hv, hvsub, hsame', hvisible', hleft'⟩ := hu.run_polls husub (by omega) hpolls
  have hrst' : v.nextInputs.rst = false := (noResetFor_succ (hlast v (run_inputs hrun))).1
  obtain ⟨t, hend, ht, htvisible, hzero, hper⟩ := hv.stopped (hv.sub_stop hvsub (by omega) hrst') hrst'
  refine ⟨t, ?_, (hsame.trans hsame').ends ht, htvisible.trans (hvisible'.trans hvisible), hzero, ?_⟩
  · rw [run_succ_of_step hstep, run_add hrun, run_succ_of_step hend]
    rfl
  · rw [hper, (hsame.trans hsame').ticksPerMs]

/-- A micro-step with no wait open ends after exactly its cycles (R178, R179). -/
theorem RunsMicro.run_micro {s : State} {i : Instr} {m : Micro} (h : RunsMicro i m s) (hsub : s.sub = .arm)
    (hr : s.noResetFor (microCycles s.ticksPerMs.toNat m)) :
    ∃ t, Host.Core.run Sys2Proof.core (microCycles s.ticksPerMs.toNat m) s = .next t ∧ EndsMicro i s t ∧
      t.visible = s.visible.micro m := by
  cases m with
  | body ps =>
    obtain ⟨t, hstep, ht, hvisible⟩ := h.body_ran (noResetFor_succ hr).1
    exact ⟨t, run_succ_of_step hstep, ht, hvisible⟩
  | wait n =>
    obtain ⟨t, hrun, ht, hvisible, -⟩ := h.run_wait hsub hr
    exact ⟨t, hrun, ht, hvisible⟩

/-- The command `i` stands before a micro-step of its list with no wait open, or has ended (R26). -/
structure BetweenMicros (i : Instr) (s : State) : Prop where
  inv : s.Inv
  decoded : decode s.latched = .ok i
  sub : s.sub = .arm
  le : s.step.toNat ≤ (microSteps i).length
  ph : s.ph = if s.step.toNat = (microSteps i).length then .idle else .exec

theorem RunsMicro.betweenMicros_of_ends {s t : State} {i : Instr} {m : Micro} (h : RunsMicro i m s)
    (ht : EndsMicro i s t) : BetweenMicros i t := by
  have hlt := h.inv.step_lt h.exec h.decoded
  have hstep : t.step.toNat = s.step.toNat + 1 := by rw [ht.step, step_succ_toNat hlt]
  exact ⟨ht.inv, by rw [ht.latched, h.decoded], ht.sub, hstep ▸ hlt, by rw [ht.ph, hstep]⟩

/-- The micro-steps that are left take exactly their cycles, and then the command has ended (R26, R178). -/
theorem BetweenMicros.run_rest {s : State} {i : Instr} {ms : List Micro} (h : BetweenMicros i s)
    (hms : (microSteps i).drop s.step.toNat = ms) (hr : s.noResetFor (stepsCycles s.ticksPerMs.toNat ms)) :
    ∃ t, Host.Core.run Sys2Proof.core (stepsCycles s.ticksPerMs.toNat ms) s = .next t ∧ t.Inv ∧ t.ph = .idle ∧
      t.step.toNat = (microSteps i).length ∧ t.visible = ms.foldl Visible.micro s.visible := by
  induction ms generalizing s with
  | nil =>
    have hend : s.step.toNat = (microSteps i).length := h.le.antisymm (List.drop_eq_nil_iff.mp hms)
    exact ⟨s, rfl, h.inv, by rw [h.ph, if_pos hend], hend, rfl⟩
  | cons m ms ih =>
    have hlt : s.step.toNat < (microSteps i).length := by
      by_contra hge
      rw [List.drop_eq_nil_iff.mpr (Nat.le_of_not_lt hge)] at hms
      exact absurd hms (by simp)
    obtain ⟨hm, hrest⟩ := List.cons.inj ((List.drop_eq_getElem_cons hlt).symm.trans hms)
    have hs : RunsMicro i m s :=
      ⟨h.inv, by rw [h.ph, if_neg hlt.ne], h.decoded, by rw [List.getElem?_eq_getElem hlt, hm]⟩
    have hsplit : stepsCycles s.ticksPerMs.toNat (m :: ms) =
        microCycles s.ticksPerMs.toNat m + stepsCycles s.ticksPerMs.toNat ms := rfl
    rw [hsplit] at hr ⊢
    obtain ⟨hmicro, hafter⟩ := noResetFor_add hr
    obtain ⟨u, hrun, hu, hvisible⟩ := hs.run_micro h.sub hmicro
    have hdrop : (microSteps i).drop u.step.toNat = ms := by rw [hu.step, step_succ_toNat hlt, hrest]
    obtain ⟨t, hrun', ht⟩ := ih (hs.betweenMicros_of_ends hu) hdrop
      (hu.ticksPerMs ▸ hafter u (run_inputs hrun))
    rw [hu.ticksPerMs] at hrun'
    rw [hvisible] at ht
    exact ⟨t, (run_add hrun).trans hrun', ht⟩

/-- An acceptance leaves the command before its first micro-step (R27). -/
theorem betweenMicros_of_offers {s : State} {w : CmdWord} {i : Instr} (hs : s.Inv) (hready : s.cmdReady = true)
    (hw : s.offers w) (hd : decode w = .ok i) :
    ∃ t, step s = .next t ∧ BetweenMicros i t ∧ t.step = 0 ∧ t.ticksPerMs = s.ticksPerMs ∧ t.visible = s.visible := by
  have hstep := step_of_offers hready hw hd
  refine ⟨_, hstep, ⟨inv_step hs hstep, ?_, by simp, by simp, ?_⟩, by simp, by simp, by simp [State.visible]⟩
  · simpa [State.latched] using hd
  · simp [(microSteps_length_pos i).ne]

/-! ## The foreign bits over a run -/

/-- What the environment makes of a bit depends on that bit alone (R59). -/
theorem bit_environment_congr {p q : Port} {k : Nat} (hwidth : p.width = q.width)
    (hbit : p.bit k = q.bit k) (inp : Inputs) : (p.environment inp).bit k = (q.environment inp).bit k := by
  unfold Port.environment
  cases inp.foreign with
  | none => exact hbit
  | some f => rw [Port.bit_writeForeign, Port.bit_writeForeign, hbit, hwidth]

theorem bit_foldl_environment_congr {p q : Port} {k : Nat} (hwidth : p.width = q.width)
    (hbit : p.bit k = q.bit k) (inps : List Inputs) :
    (inps.foldl Port.environment p).bit k = (inps.foldl Port.environment q).bit k := by
  induction inps generalizing p q with
  | nil => exact hbit
  | cons inp inps ih => exact ih (by simpa using hwidth) (bit_environment_congr hwidth hbit inp)

/-- With no input planned the environment leaves the port alone (log entry 5). -/
theorem foldl_environment_take_succ (k : Nat) (s : State) :
    (s.inputs.take (k + 1)).foldl Port.environment s.pout =
      (s.inputs.tail.take k).foldl Port.environment (s.pout.environment s.nextInputs) := by
  unfold State.nextInputs
  cases s.inputs with
  | nil => simp [Port.environment, Inputs.quiet]
  | cons inp rest => rfl

/-- Over a run the foreign bits are as the environment's writes make them (R59). -/
theorem run_foreign_bit {n k : Nat} {s t : State} (hk : 6 ≤ k) (h : Host.Core.run Sys2Proof.core n s = .next t) :
    t.pout.bit k = ((s.inputs.take n).foldl Port.environment s.pout).bit k := by
  induction n generalizing s with
  | zero => rw [← Host.Outcome.next.inj h]; rfl
  | succ n ih =>
    obtain ⟨u, hu, hrest⟩ := step_of_run_succ h
    have hwidth : u.pout.width = (s.pout.environment s.nextInputs).width := by
      rw [(parametersAreConstant s u hu).2, Port.width_environment]
    rw [ih hrest, foldl_environment_take_succ, (step_inputs hu).1]
    exact bit_foldl_environment_congr hwidth (step_foreign_bit hk hu) _

end Sys2Proof.Machine
end

section
/-! SUPPORT. What one edge of a command leaves unchanged, by the kind of the micro-step at which it stands (spec/40_delay.md
R90, R91, spec/41_mirror_flush.md R100 to R103, spec/42_transmitter.md R110). -/

namespace Sys2Proof.Machine

/-- A body leaves the timer, `MSCNT` and `SUB` (R100 to R104). -/
theorem exec_body_keeps_timer {i : Instr} {s t : State} {ps : List Prim} (h : exec i s = .next t)
    (hm : (microSteps i)[s.step.toNat]? = some (.body ps)) :
    t.trun = s.trun ∧ t.tper = s.tper ∧ t.tcnt = s.tcnt ∧ t.tifg = s.tifg ∧ t.mscnt = s.mscnt ∧ t.sub = s.sub := by
  rw [exec_eq_runMicro, runMicro_of_body hm] at h
  rw [← Host.Outcome.next.inj h, runBody_frame]
  exact ⟨rfl, rfl, rfl, rfl, rfl, rfl⟩

/-- A wait leaves the control state and the port (R91). -/
theorem exec_wait_keeps_control {i : Instr} {s t : State} {n : Count} (h : exec i s = .next t)
    (hm : (microSteps i)[s.step.toNat]? = some (.wait n)) :
    t.rs = s.rs ∧ t.en = s.en ∧ t.nib = s.nib ∧ t.pout = s.pout := by
  rcases exec_next h with ⟨ps, hm', -⟩ | ⟨n, -, ⟨-, rfl⟩ | ⟨-, rfl⟩ | ⟨-, rfl⟩⟩
  · exact absurd (hm.symm.trans hm') (by simp)
  · exact ⟨rfl, rfl, rfl, rfl⟩
  · simp
  · exact ⟨rfl, rfl, rfl, rfl⟩

/-- A command that answers a next state stands at a micro-step of its list (R26). -/
theorem exists_micro_of_exec {i : Instr} {s t : State} (h : exec i s = .next t) :
    ∃ m, (microSteps i)[s.step.toNat]? = some m := by
  rcases exec_next h with ⟨ps, hm, -⟩ | ⟨n, hm, -⟩
  · exact ⟨_, hm⟩
  · exact ⟨_, hm⟩

/-- A command of one micro-step stands at that one. -/
theorem micro_of_exec_single {i : Instr} {s t : State} {m : Micro} (hi : microSteps i = [m])
    (h : exec i s = .next t) : (microSteps i)[s.step.toNat]? = some m := by
  obtain ⟨m', hm⟩ := exists_micro_of_exec h
  rw [hi, List.getElem?_singleton] at hm ⊢
  split_ifs at hm ⊢
  rfl

theorem exec_of_single_body {i : Instr} {s t : State} {ps : List Prim} (hi : microSteps i = [.body ps])
    (h : exec i s = .next t) : t = completeStep 1 (runBody ps s) := by
  have hm := micro_of_exec_single hi h
  rw [exec_eq_runMicro, runMicro_of_body hm, hi] at h
  exact (Host.Outcome.next.inj h).symm

/-- The micro-steps of a transfer are a flush and a wait in turn (R110). -/
theorem sendSteps_alternate {rs : BitVec 1} {b : Byte} {k : Nat} {m : Micro} (h : (sendSteps rs b)[k]? = some m) :
    (k % 2 = 1 → m = .wait 1) ∧ (k % 2 = 0 → ∃ ps, m = .body ps) := by
  obtain ⟨hlt, rfl⟩ := List.getElem?_eq_some_iff.mp h
  have hlt' : k < 9 := hlt
  interval_cases k <;> simp [sendSteps]

end Sys2Proof.Machine
end

section
/-! The statements of spec/40_delay.md. -/

namespace Sys2Proof.Machine

/-- Settles O26: the cycles of `RunsMicro.run_wait`, written out. -/
theorem waitTakesItsCycles : Obligations.WaitTakesItsCycles := by
  intro s i n hs hp hd hm hsub hr
  obtain ⟨t, hrun, ht, hvisible, hzero, hper⟩ := RunsMicro.run_wait ⟨hs, hp, hd, hm⟩ hsub hr
  obtain ⟨hrs, hen, hnib, hown, htrace⟩ := Visible.mk.inj hvisible
  exact ⟨t, hrun, ht.step, ht.sub, ht.inv.trun_of_arm ht.sub, hzero, hper, htrace, hrs, hen, hnib, hown⟩

/-- Settles O27: after `ARM` a run shorter than the wait's cycles is a run of polls, and the `Out` events are those in
view since `ARM`. -/
theorem waitHoldsThePins : Obligations.WaitHoldsThePins := by
  intro s i n k hs hp hd hm hsub hk hr
  cases k with
  | zero => exact ⟨s, rfl, rfl, rfl, rfl, hp⟩
  | succ k =>
    obtain ⟨hrst, hrest⟩ := noResetFor_succ hr
    obtain ⟨u, hstep, hu, husub, hsame, hvisible, hleft⟩ := RunsMicro.armed ⟨hs, hp, hd, hm⟩ hsub hrst
    have hlong : k < u.microLeft (.wait n) := by
      unfold waitCycles at hleft
      split_ifs at hleft with hzero
      · rw [hzero, Nat.zero_mul] at hk; omega
      · omega
    obtain ⟨t, hrun, ht, -, hsame', hvisible', -⟩ := hu.run_polls husub hlong (hrest u (step_inputs hstep).1)
    obtain ⟨-, -, -, hown, htrace⟩ := Visible.mk.inj (hvisible'.trans hvisible)
    refine ⟨t, (run_succ_of_step hstep).trans hrun, hown, ?_, (hsame.trans hsame').step, ht.exec⟩
    simpa [State.visible, waitEvents, outs, outs_append, outs_replicate_tick] using congrArg outs htrace

/-- Settles O29: the acceptance is one edge, and the micro-steps that follow make of the visible state what the rule of
the command says. -/
theorem commandRunsToItsEnd : Obligations.CommandRunsToItsEnd := by
  intro s w i hs hready hw hd hr
  have hcycles : commandCycles s.ticksPerMs.toNat i = stepsCycles s.ticksPerMs.toNat (microSteps i) + 1 :=
    Nat.add_comm _ _
  rw [hcycles] at hr ⊢
  obtain ⟨u, hstep, hu, hzero, hticks, hvisible⟩ := betweenMicros_of_offers hs hready hw hd
  obtain ⟨t, hrun, ht, hp, hlen, hend⟩ := hu.run_rest (ms := microSteps i) (by rw [hzero]; rfl)
    (hticks ▸ (noResetFor_succ hr).2 u (step_inputs hstep).1)
  rw [hvisible, visible_microSteps] at hend
  obtain ⟨hrs, hen, hnib, hown, htrace⟩ := Visible.mk.inj hend
  have hall := (run_succ_of_step hstep).trans (hticks ▸ hrun)
  exact ⟨t, hall, hp, ht.trun_of_idle hp, hlen, htrace, hrs, hen, hnib, hown, fun k hk => run_foreign_bit hk hall⟩

/-- Settles O28: `ARM`, one poll and `STOP`; the invariant is not needed, since `MSCNT = 0` from `ARM` on. -/
theorem delayZeroArmsAndDisarms : Obligations.DelayZeroArmsAndDisarms := by
  intro s hp hd hstep hsub hr
  have hm {u : State} (hu : u.step = s.step) : (microSteps (.delay 0))[u.step.toNat]? = some (.wait 0) := by
    rw [hu, hstep]; rfl
  obtain ⟨hr₀, hrest₀⟩ := noResetFor_succ hr
  have h₀ := step_arm hr₀ hp hd (hm rfl) hsub
  obtain ⟨hr₁, hrest₁⟩ := noResetFor_succ (hrest₀ _ (step_inputs h₀).1)
  have h₁ := step_poll hr₁ hp hd (hm rfl) rfl
  obtain ⟨hr₂, -⟩ := noResetFor_succ (hrest₁ _ (step_inputs h₁).1)
  rw [waitRun_of_zero rfl] at h₁ hr₂
  have h₂ := step_stop hr₂ (by simpa using hp) (by simpa [State.latched] using hd) (hm (by simp)) (by simp)
  refine ⟨_, (run_succ_of_step h₀).trans ((run_succ_of_step h₁).trans (run_succ_of_step h₂)), ?_⟩
  simp [hstep, microSteps, delaySteps]

/-- Settles O24: `State.Inv.tifg_of_expiring`, and so the edge that counts a tick is one at which the timer counts. -/
theorem noTickIsLost : Obligations.NoTickIsLost := by
  intro s hs hrun hflag
  have hc : s.tcnt ≠ s.tper - 1 := fun h => absurd (hs.tifg_of_expiring hrun h) (by simp [hflag])
  refine ⟨by rw [State.expiring, beq_false_of_ne hc, Bool.and_false], fun t h hrst hsub hpos => ?_⟩
  obtain ⟨i, n, hs'⟩ := hs.exists_runsMicro (by simp [hsub])
  have hstep := step_poll hrst hs'.exec hs'.decoded hs'.micro hsub
  rw [waitRun_of_tick (s := environment s.nextInputs s) hpos hflag,
    timerEdge_of_count (pre := environment s.nextInputs s) _ (by simp [hsub]) hrun hc] at hstep
  obtain rfl := Host.Outcome.next.inj (h.symm.trans hstep)
  have hsucc : (s.mscnt - 1).toNat + 1 = s.mscnt.toNat := by bv_omega
  exact ⟨rfl, hsucc, rfl⟩

/-- Settles O19: the sub-steps of a running command, forwards; a poll leaves a clear flag clear. -/
theorem waitSubStepsOfEveryCommand : Obligations.WaitSubStepsOfEveryCommand := by
  intro i n s hm
  have harm : s.sub = .arm → exec i s = .next (waitArm n s) := fun h =>
    (exec_eq_runMicro i s).trans (runMicro_of_arm hm h)
  have hrun : s.sub = .run → exec i s = .next (waitRun s) := fun h =>
    (exec_eq_runMicro i s).trans (runMicro_of_run hm h)
  have hstop : s.sub = .stop → exec i s = .next (completeStep (microSteps i).length (waitStop s)) := fun h =>
    (exec_eq_runMicro i s).trans (runMicro_of_stop hm h)
  refine ⟨harm, fun h hzero => ?_, fun h hpos hflag => ?_, fun h hpos hclear => ?_, hstop, fun t ht hclear => ?_⟩
  · rw [hrun h, waitRun_of_zero hzero]
  · rw [hrun h, waitRun_of_tick hpos hflag]
  · rw [hrun h, waitRun_of_clear hpos hclear]
  · rcases exec_next ht with ⟨ps, hm', -⟩ | ⟨n, -, ⟨-, rfl⟩ | ⟨-, rfl⟩ | ⟨-, rfl⟩⟩
    · exact absurd (hm.symm.trans hm') (by simp)
    · rfl
    · exact waitRun_tifg_of_clear hclear
    · exact hclear

/-- Settles O18: the sub-steps of a wait, at the one micro-step of `DELAY`. -/
theorem delaySubSteps : Obligations.DelaySubSteps := by
  intro n s hstep
  have hm : (microSteps (.delay n))[s.step.toNat]? = some (.wait n) := by rw [hstep]; rfl
  obtain ⟨harm, hzero, htick, hclear, hstop, -⟩ := waitSubStepsOfEveryCommand (.delay n) n s hm
  refine ⟨harm, hzero, htick, hclear, fun h => ?_⟩
  rw [hstop h, hstep]
  rfl

/-- Settles O22: what every command leaves, then each command by the kind of its micro-steps. -/
theorem commandFrames : Obligations.CommandFrames := by
  intro i s t h
  obtain ⟨hopl, hargl, hio, hin, hedges⟩ := exec_frame h
  obtain ⟨hticks, hwidth⟩ := exec_parameters h
  obtain ⟨m, hm⟩ := exists_micro_of_exec h
  refine ⟨⟨hopl, hargl, hticks, hio, hin, hedges, hwidth, fun k hk => exec_foreign_bit hk h⟩,
    ?port, ?timer, ?control, ?setrs, ?seten, ?setnib, ?sendWait, ?sendFlush⟩
  case port =>
    rintro (⟨v, rfl⟩ | ⟨v, rfl⟩ | ⟨n, rfl⟩ | ⟨n, rfl⟩)
    · rw [exec_of_single_body rfl h]; rfl
    · rw [exec_of_single_body rfl h]; rfl
    · rw [exec_of_single_body rfl h]; rfl
    · obtain ⟨-, -, -, hpout⟩ := exec_wait_keeps_control h (micro_of_exec_single rfl h)
      exact hpout
  case timer =>
    rintro (⟨v, rfl⟩ | ⟨v, rfl⟩ | ⟨n, rfl⟩ | rfl)
    all_goals exact exec_body_keeps_timer h (micro_of_exec_single rfl h)
  case control =>
    rintro (rfl | ⟨n, rfl⟩)
    · rw [exec_of_single_body rfl h]; exact ⟨rfl, rfl, rfl⟩
    · obtain ⟨hrs, hen, hnib, -⟩ := exec_wait_keeps_control h (micro_of_exec_single rfl h)
      exact ⟨hrs, hen, hnib⟩
  case setrs | seten | setnib =>
    rintro ⟨v, rfl⟩
    rw [exec_of_single_body rfl h]
    exact ⟨rfl, rfl, rfl⟩
  case sendWait =>
    rintro (⟨b, rfl⟩ | ⟨b, rfl⟩) hodd
    all_goals
      obtain rfl := (sendSteps_alternate hm).1 hodd
      exact exec_wait_keeps_control h hm
  case sendFlush =>
    rintro (⟨b, rfl⟩ | ⟨b, rfl⟩) heven
    all_goals
      obtain ⟨ps, rfl⟩ := (sendSteps_alternate hm).2 heven
      exact exec_body_keeps_timer h hm

end Sys2Proof.Machine
end

section
/-! SUPPORT. Rules of spec/41_mirror_flush.md: the one edge of a command whose only micro-step is a body, and the masked
write of the port as a number. -/

namespace Sys2Proof.Machine

/-- A command with one body as its list runs that body at `STEP` 0 and ends (R26, R100 to R103). -/
theorem exec_eq_of_single_body {i : Instr} {ps : List Prim} {s : State} (hi : microSteps i = [.body ps])
    (hstep : s.step = 0) : exec i s = .next { runBody ps s with step := 1, ph := .idle } := by
  have hm : [Micro.body ps][s.step.toNat]? = some (.body ps) := by rw [hstep]; rfl
  have hstep' : (runBody ps s).step = 0 := by rw [runBody_frame]; exact hstep
  rw [exec_eq_runMicro, hi, runMicro_of_body hm, completeStep, hstep']
  rfl

/-- The six low bits of the register, as a number. -/
theorem Port.toNat_own (p : Port) : p.own.toNat = p.bits.toNat % 64 := BitVec.toNat_setWidth 6 p.bits

/-- The masked write leaves the number the foreign bits stand for (R54). -/
theorem Port.toNat_writeOwn_div (p : Port) (v : Pins) : (p.writeOwn v).bits.toNat / 64 = p.bits.toNat / 64 := by
  apply Nat.eq_of_testBit_eq
  intro k
  have hbit : (p.writeOwn v).bit (k + 6) = p.bit (k + 6) := by simp [Port.bit_writeOwn]
  rw [show 64 = 2 ^ 6 by rfl, Nat.testBit_div_two_pow, Nat.testBit_div_two_pow]
  exact hbit

/-- The masked write (R104) as a number: the low six bits are replaced by the value. -/
theorem Port.toNat_writeOwn (p : Port) (v : Pins) (h : 6 ≤ p.width) :
    (p.writeOwn v).bits.toNat = p.bits.toNat - p.bits.toNat % 64 + v.toNat := by
  have hforeign := p.toNat_writeOwn_div v
  have hown : (p.writeOwn v).bits.toNat % 64 = v.toNat := by rw [← Port.toNat_own, p.own_writeOwn v h]
  omega

end Sys2Proof.Machine
end

section
/-! The statements of spec/41_mirror_flush.md. -/

namespace Sys2Proof.Machine

/-- Settles O16: `FLUSH` runs `Flush()` and ends, so the port has the masked write of `{NIB, EN, RS}`. -/
theorem flushWritesSixPortBits : Obligations.FlushWritesSixPortBits := by
  intro s hstep
  refine ⟨_, exec_eq_of_single_body rfl hstep, rfl, rfl, fun k hk => ?bits, fun hwidth => ?number,
    decode_commandWord .flush⟩
  case bits => exact (s.pout.bit_writeOwn s.v6 k).trans (by simp [hk, State.v6, pinValue])
  case number =>
    have hpins : s.v6.toNat = 4 * s.nib.toNat + 2 * s.en.toNat + s.rs.toNat := toNat_pinValue s.nib s.en s.rs
    refine (s.pout.toNat_writeOwn s.v6 hwidth).trans ?_
    rw [hpins]
    omega

/-- Settles O15: each command's one body is the write of its field, and its operand is read by `decode_commandWord`. -/
theorem setCommandsWriteOneField : Obligations.SetCommandsWriteOneField := by
  intro s hstep
  exact ⟨fun v => exec_eq_of_single_body (ps := [.writeRs v]) rfl hstep,
    fun v => exec_eq_of_single_body (ps := [.writeEn v]) rfl hstep,
    fun n => exec_eq_of_single_body (ps := [.writeNib n]) rfl hstep,
    fun arg => ⟨decode_commandWord (.setrs 0) arg, decode_commandWord (.seten 0) arg,
      decode_commandWord (.setnib 0) arg⟩⟩

end Sys2Proof.Machine
end

section
/-! SUPPORT. Rules of spec/42_transmitter.md: a transfer through its micro-step list and its events, the pin values it
shows, and the timer registers after the last wait of a run. -/

namespace Sys2Proof.Machine

/-! ## A transfer as `Send(rs, b)` -/

/-- A command at one of its bodies runs it and goes on to the next micro-step, or ends (R26). -/
theorem exec_eq_of_body {i : Instr} {ps : List Prim} {s : State}
    (hm : (microSteps i)[s.step.toNat]? = some (.body ps)) :
    exec i s = .next { runBody ps s with
      step := s.step + 1, ph := if s.step.toNat + 1 = (microSteps i).length then .idle else s.ph } := by
  rw [exec_eq_runMicro, runMicro_of_body hm, runBody_frame]
  rfl

section
variable {i : Instr} {rs : BitVec 1} {b : Byte} (h : (i = .sendi b ∧ rs = 0) ∨ (i = .sendd b ∧ rs = 1))
include h

/-- R111, R112: the two transfers are `Send(0, b)` and `Send(1, b)`. -/
theorem microSteps_of_send : microSteps i = sendSteps rs b := by
  rcases h with ⟨rfl, rfl⟩ | ⟨rfl, rfl⟩
  · rfl
  · rfl

theorem commandEvents_of_send (s : State) : commandEvents s i = sendEvents rs b := by
  rcases h with ⟨rfl, rfl⟩ | ⟨rfl, rfl⟩
  · rfl
  · rfl

/-- What R116 says of the control state and of `POUT[5:0]`. -/
theorem commandEnd_of_send (s : State) : commandRs s i = rs ∧ commandEn s i = 0 ∧ commandNib s i = lowNibble b ∧
    commandOwn s i = pinValue (lowNibble b) 0 rs := by
  rcases h with ⟨rfl, rfl⟩ | ⟨rfl, rfl⟩
  · exact ⟨rfl, rfl, rfl, rfl⟩
  · exact ⟨rfl, rfl, rfl, rfl⟩

/-- The acceptance, five bodies of one cycle and four waits of `T + 4` (R178 to R180). -/
theorem commandCycles_of_send (t : Nat) : commandCycles t i = 4 * t + 22 := by
  have hsum : stepsCycles t (sendSteps rs b) = 5 + 4 * (t + 4) := by
    simp [stepsCycles, sendSteps, microCycles, waitCycles]
    omega
  rw [commandCycles, microSteps_of_send h, hsum]
  omega

/-- At a body of its list a transfer runs it whole, and after the ninth micro-step the block is idle (R110). -/
theorem exec_send_body (s : State) (k : BitVec 4) (ps : List Prim)
    (hm : (sendSteps rs b)[k.toNat]? = some (.body ps)) (hstep : s.step = k) :
    exec i s = .next { runBody ps s with step := k + 1, ph := if k.toNat + 1 = 9 then .idle else s.ph } := by
  subst hstep
  rw [exec_eq_of_body (microSteps_of_send h ▸ hm), microSteps_of_send h]
  rfl

end

/-! ## The pin values of a transfer -/

/-- The five `Out` events of a transfer, one for each even micro-step (R113). -/
theorem outs_sendEvents (rs : BitVec 1) (b : Byte) :
    outs (sendEvents rs b) =
      [ pinValue (highNibble b) 0 rs, pinValue (highNibble b) 1 rs, pinValue (lowNibble b) 0 rs,
        pinValue (lowNibble b) 1 rs, pinValue (lowNibble b) 0 rs ] := rfl

@[simp] theorem enLine_pinValue (nib : Nibble) (en rs : BitVec 1) : enLine (pinValue nib en rs) = en.getLsbD 0 :=
  getLsbD_pinValue nib en rs 1

/-- The mask of the lines other than enable clears the enable bit (R164). -/
theorem pinValue_and_dataMask (nib : Nibble) (en rs : BitVec 1) : pinValue nib en rs &&& 0x3D = pinValue nib 0 rs := by
  calc pinValue nib en rs &&& 0x3D = (nib ++ en ++ rs) &&& (BitVec.allOnes 4 ++ 0#1 ++ BitVec.allOnes 1) := rfl
    _ = pinValue nib 0 rs := by
      rw [BitVec.and_append, BitVec.and_append, BitVec.and_allOnes, BitVec.and_zero, BitVec.and_allOnes]
      rfl

theorem pinValue_nib_inj {nib nib' : Nibble} {en rs : BitVec 1} :
    pinValue nib en rs = pinValue nib' en rs ↔ nib = nib' := by
  refine ⟨fun h => BitVec.eq_of_toNat_eq ?_, fun h => h ▸ rfl⟩
  have hnum := congrArg BitVec.toNat h
  rw [toNat_pinValue, toNat_pinValue] at hnum
  omega

/-- Two pin values with the same register-select agree outside the enable line exactly when they show one nibble. -/
@[simp] theorem sameData_pinValue (nib nib' : Nibble) (en en' rs : BitVec 1) :
    sameData (pinValue nib en rs) (pinValue nib' en' rs) = decide (nib = nib') := by
  rw [sameData, pinValue_and_dataMask, pinValue_and_dataMask, beq_eq_decide, decide_eq_decide]
  exact pinValue_nib_inj

/-! ## What every edge of a run keeps -/

/-- What holds at the start of a run without reset and is kept by every edge of it holds at its end. -/
theorem run_keeps {P : State → Prop}
    (hkeep : ∀ s t : State, P s → s.nextInputs.rst = false → step s = .next t → P t)
    {k : Nat} {s t : State} (hs : P s) (hr : s.noResetFor k) (h : Host.Core.run Sys2Proof.core k s = .next t) :
    P t := by
  induction k generalizing s with
  | zero => exact Host.Outcome.next.inj h ▸ hs
  | succ k ih =>
    obtain ⟨hrst, hrest⟩ := noResetFor_succ hr
    obtain ⟨u, hu, hrun⟩ := step_of_run_succ h
    exact ih (hkeep s u hs hrst hu) (hrest u (step_inputs hu).1) hrun

/-! ## The timer between the waits of a command -/

/-- What holds from an `ARM` on, until a reset: while no wait is open, `MSCNT` and `TPER` are as the last `STOP` left
them (R91, R116). -/
structure AfterArm (T : Count) (s : State) : Prop where
  inv : s.Inv
  ticksPerMs : s.ticksPerMs = T
  rests : s.sub = .arm → s.mscnt = 0 ∧ s.tper = T

/-- An acceptance, an idle edge and a body write neither register; `STOP` comes with `MSCNT = 0` and the period `T`. -/
theorem AfterArm.step {T : Count} {s t : State} (hs : AfterArm T s) (hr : s.nextInputs.rst = false)
    (h : step s = .next t) : AfterArm T t := by
  refine ⟨inv_step hs.inv h, (parametersAreConstant s t h).1.trans hs.ticksPerMs, fun hsub => ?_⟩
  rcases step_next h with ⟨hrst, -⟩ | ⟨-, hp, -, -, rfl⟩ | ⟨-, hp, -, rfl⟩ | ⟨-, hp, i, u, hd, hu, rfl⟩
  · exact absurd (hr.symm.trans hrst) (by simp)
  · simpa using hs.rests (hs.inv.idleSub hp)
  · simpa using hs.rests (hs.inv.idleSub hp)
  · rw [timerEdge_mscnt, timerEdge_tper]
    rw [timerEdge_sub] at hsub
    rcases exec_next hu with ⟨ps, hm, -⟩ | ⟨n, -, ⟨-, rfl⟩ | ⟨hrun, rfl⟩ | ⟨hstop, rfl⟩⟩
    · obtain ⟨-, hper, -, -, hcount, -⟩ := exec_body_keeps_timer hu hm
      rw [hper, hcount]
      exact hs.rests (hs.inv.sub_of_body hp hd hm)
    · exact absurd hsub (by simp)
    · exact absurd hsub (waitRun_sub_ne_arm hrun)
    · have hopen : s.sub ≠ .arm := fun harm => absurd (harm.symm.trans hstop) (by simp)
      exact ⟨hs.inv.stopZero hstop, (hs.inv.period (hs.inv.trun_of_sub hopen)).1.trans hs.ticksPerMs⟩

theorem BetweenMicros.runsMicro {s : State} {i : Instr} {m : Micro} (h : BetweenMicros i s)
    (hm : (microSteps i)[s.step.toNat]? = some m) : RunsMicro i m s := by
  obtain ⟨hlt, -⟩ := List.getElem?_eq_some_iff.mp hm
  exact ⟨h.inv, by rw [h.ph, if_neg hlt.ne], h.decoded, hm⟩

/-- A command that begins with a body and a wait has opened the wait three edges after its offer: one for the
acceptance, one for the body, one for `ARM` (R178). -/
theorem run_to_first_arm {s : State} {w : CmdWord} {i : Instr} {ps : List Prim} {n : Count} {rest : List Micro}
    (hs : s.Inv) (hready : s.cmdReady = true) (hw : s.offers w) (hd : decode w = .ok i)
    (hms : microSteps i = .body ps :: .wait n :: rest) (hr : s.noResetFor 3) :
    ∃ t, Host.Core.run Sys2Proof.core 3 s = .next t ∧ AfterArm s.ticksPerMs t := by
  obtain ⟨-, hrest⟩ := noResetFor_succ hr
  obtain ⟨u, hstep, hu, hzero, hticks, -⟩ := betweenMicros_of_offers hs hready hw hd
  obtain ⟨hr', hrest'⟩ := noResetFor_succ (hrest u (step_inputs hstep).1)
  have hbody : RunsMicro i (.body ps) u := hu.runsMicro (by rw [hms, hzero]; rfl)
  obtain ⟨v, hstep', hv, -⟩ := hbody.body_ran hr'
  obtain ⟨hr'', -⟩ := noResetFor_succ (hrest' v (step_inputs hstep').1)
  have hwait : RunsMicro i (.wait n) v :=
    (hbody.betweenMicros_of_ends hv).runsMicro (by rw [hms, hv.step, hzero]; rfl)
  obtain ⟨t, hstep'', ht, hopen, hsame, -⟩ := hwait.armed hv.sub hr''
  refine ⟨t, ?_, ht.inv, ?_, fun hsub => absurd hsub hopen⟩
  · rw [run_succ_of_step hstep, run_succ_of_step hstep', run_succ_of_step hstep'']
    rfl
  · rw [hsame.ticksPerMs, hv.ticksPerMs, hticks]

end Sys2Proof.Machine
end

section
/-! The statements of spec/42_transmitter.md. -/

namespace Sys2Proof.Machine

/-- Settles O20: each even micro-step is a body, which runs whole at its edge. -/
theorem transferMicroSteps : Obligations.TransferMicroSteps := by
  intro i rs b s h
  have hms := microSteps_of_send h
  have hbody := exec_send_body h s
  rw [← highNibble_eq_extractLsb', ← lowNibble_eq_extractLsb']
  refine ⟨hbody 0 _ rfl, hbody 2 _ rfl, hbody 4 _ rfl, hbody 6 _ rfl, hbody 8 _ rfl,
    fun k hk hodd => ?waits, by rw [hms]; rfl⟩
  case waits =>
    have hm : (sendSteps rs b)[k]? = some (sendSteps rs b)[k] := List.getElem?_eq_getElem hk
    rw [hms, hm, (sendSteps_alternate hm).1 hodd]

/-- Settles O31: the command runs to its end, and the timer is as the last wait left it. -/
theorem transferEndState : Obligations.TransferEndState := by
  intro s w b rs hs hready hw hdec hr
  obtain ⟨i, hd, hi⟩ : ∃ i, decode w = .ok i ∧ ((i = .sendi b ∧ rs = 0) ∨ (i = .sendd b ∧ rs = 1)) := by
    rcases hdec with ⟨hd, hrs⟩ | ⟨hd, hrs⟩
    · exact ⟨_, hd, .inl ⟨rfl, hrs⟩⟩
    · exact ⟨_, hd, .inr ⟨rfl, hrs⟩⟩
  obtain ⟨hrs, hen, hnib, hown⟩ := commandEnd_of_send hi s
  have hend := commandRunsToItsEnd s w i hs hready hw hd
  rw [commandCycles_of_send hi, hrs, hen, hnib, hown] at hend
  obtain ⟨(t : State), hrun, hp, htrun, -, -, hrs', hen', hnib', hown', hforeign⟩ := hend hr
  have hsplit : 4 * s.ticksPerMs.toNat + 22 = 3 + (4 * s.ticksPerMs.toNat + 19) := by omega
  have htimer : AfterArm s.ticksPerMs t := by
    rw [hsplit] at hr hrun
    obtain ⟨hfirst, hrest⟩ := noResetFor_add hr
    obtain ⟨u, hu, harm⟩ := run_to_first_arm hs hready hw hd (microSteps_of_send hi) hfirst
    exact run_keeps (fun _ _ => AfterArm.step) harm (hrest u (run_inputs hu)) ((run_add hu).symm.trans hrun)
  obtain ⟨hzero, hper⟩ := htimer.rests (htimer.inv.idleSub hp)
  rw [← lowNibble_eq_extractLsb']
  have hmirror : t.pout.own = t.v6 := by rw [hown', State.v6, hrs', hen', hnib']
  exact ⟨t, hrun, hrs', hen', hnib', hown', hforeign, htrun, hzero, hper, hp, hmirror⟩

/-- Settles O34: the events of `Send(rs, b)`, counted. -/
theorem transferEventCounts : Obligations.TransferEventCounts := by
  intro s b i hi
  obtain ⟨rs, hevents⟩ : ∃ rs, commandEvents s i = sendEvents rs b := by
    rcases hi with rfl | rfl
    · exact ⟨0, rfl⟩
    · exact ⟨1, rfl⟩
  rw [hevents]
  exact ⟨rfl, rfl, rfl, rfl, rfl⟩

/-- Settles O35: the enable field of the five values is 0, 1, 0, 1, 0, and only the fall from the second to the third
comes with a change of the nibble. -/
theorem transferEnableEdges : Obligations.TransferEnableEdges := by
  intro s b i rs v h
  have hsend : (i = .sendi b ∧ BitVec.ofBool rs = 0) ∨ (i = .sendd b ∧ BitVec.ofBool rs = 1) := by
    rcases h with ⟨hi, rfl⟩ | ⟨hi, rfl⟩
    · exact .inl ⟨hi, rfl⟩
    · exact .inr ⟨hi, rfl⟩
  rw [commandEvents_of_send hsend, outs_sendEvents]
  refine ⟨fun hlow => ⟨?_, ?_, ?_, ?_⟩, fun hhigh => ⟨?_, ?_⟩, fun u hu => ?_⟩
  · simp [risingEdges, hlow]
  · simp [fallingEdges, hlow]
  · simp [stableAtRise]
  · simp [stableAtEdges, hlow]
  · simp [risingEdges, hhigh]
  · simp [fallingEdges, hhigh]
  · obtain ⟨nib, en, rfl⟩ : ∃ nib en, u = pinValue nib en (BitVec.ofBool rs) := by
      simp only [List.mem_cons, List.not_mem_nil, or_false] at hu
      rcases hu with rfl | rfl | rfl | rfl | rfl
      all_goals exact ⟨_, _, rfl⟩
    rw [getLsbD_pinValue]
    simp

end Sys2Proof.Machine
end

section
/-! SUPPORT. Rules of the host's sequences: the byte of `SETCURSOR`, and the commands of `SENDSTRING` one by one
(spec/43_host_sequences.md). -/

namespace Sys2Proof.Machine

/-- The display's address command is the top bit, so below it the `or` of R128 adds. -/
theorem toNat_iSetDdram_or {n : Nat} (h : n < 2 ^ 7) :
    (Config.iSetDdram ||| BitVec.ofNat 8 n).toNat = 0x80 + n := by
  have hword : n % 2 ^ 8 = n := Nat.mod_eq_of_lt (h.trans (by decide))
  rw [BitVec.toNat_or, BitVec.toNat_ofNat, hword]
  exact (Nat.two_pow_add_eq_or_of_lt h 1).symm

theorem toNat_cursorByte_of_lt_pivot {p : Nat} (h : p < 15) : (cursorByte p).toNat = 0x80 + p := by
  rw [cursorByte, if_pos (show p < Config.cursorPivot from h), toNat_iSetDdram_or (by omega)]

theorem toNat_cursorByte_of_pivot_le {p : Nat} (h : 15 ≤ p) (hp : p < 32) :
    (cursorByte p).toNat = 0x80 + 48 + p := by
  rw [cursorByte, if_neg (show ¬ p < Config.cursorPivot from h.not_gt), toNat_iSetDdram_or (by omega), Nat.add_assoc]

theorem setCursor_of_lt {p : Nat} (h : p < 32) : setCursor p = .ok [.sendi (cursorByte p)] :=
  if_pos h

theorem setCursor_of_le {p : Nat} (h : 32 ≤ p) : setCursor p = .error (.cursorOutOfRange p) :=
  if_neg h.not_gt

/-- Two commands for each character, as far as there are positions left (R129). -/
theorem length_sendFrom (p fuel : Nat) (cs : List Byte) :
    (sendFrom p fuel cs).length = 2 * min cs.length fuel := by
  induction fuel generalizing p cs with
  | zero => simp [sendFrom]
  | succ fuel ih =>
    cases cs with
    | nil => simp [sendFrom]
    | cons c cs =>
      rw [sendFrom, List.length_cons, List.length_cons, ih, List.length_cons, Nat.add_min_add_right]
      omega

/-- Character `k` of a string begun at position `p`: the cursor goes to `p + k`, then the character is sent (R129). -/
theorem getElem?_sendFrom {p fuel k : Nat} {cs : List Byte} {c : Byte} (hk : k < fuel) (hc : cs[k]? = some c) :
    (sendFrom p fuel cs)[2 * k]? = some (.sendi (cursorByte (p + k))) ∧
      (sendFrom p fuel cs)[2 * k + 1]? = some (.sendd c) := by
  induction cs generalizing p fuel k with
  | nil => simp at hc
  | cons d tail ih =>
    obtain ⟨fuel, rfl⟩ := Nat.exists_eq_add_one_of_ne_zero (Nat.ne_zero_of_lt hk)
    cases k with
    | zero =>
      obtain rfl : d = c := Option.some.inj hc
      exact ⟨rfl, rfl⟩
    | succ k =>
      have hrest := ih (p := p + 1) (Nat.lt_of_succ_lt_succ hk) hc
      rwa [Nat.add_right_comm p 1 k] at hrest

end Sys2Proof.Machine
end

section
/-! The statements of spec/43_host_sequences.md. -/

namespace Sys2Proof.Machine

/-- Settles O48: `SENDSTRING` begins at position 0 with 32 positions left. -/
theorem sendStringCommands : Obligations.SendStringCommands := by
  intro hp cs
  refine ⟨sendString cs, rfl, length_sendFrom 0 32 cs, fun k c hk hc => ?_⟩
  obtain ⟨hcursor, hchar⟩ := getElem?_sendFrom (p := 0) hk hc
  rw [Nat.zero_add] at hcursor
  exact ⟨⟨.sendi (cursorByte k), setCursor_of_lt hk, hcursor⟩, hchar⟩

/-- Settles O47: below 15, from 15 to 31, and from 32 on. -/
theorem setCursorBytes : Obligations.SetCursorBytes := by
  intro hp p
  refine ⟨fun hlow => ?_, fun hhigh hlegal => ?_, fun hout => setCursor_of_le hout⟩
  · exact ⟨cursorByte p, setCursor_of_lt (by omega), toNat_cursorByte_of_lt_pivot hlow⟩
  · exact ⟨cursorByte p, setCursor_of_lt hlegal, toNat_cursorByte_of_pivot_le hhigh hlegal⟩

/-- Settles O49: the encoder is evaluated on each of the three lists; `INIT` and `CLEAR` are so by definition. -/
theorem handshakeWords : Obligations.HandshakeWords := by
  refine ⟨?phase0, ?pulse, ?nibble, fun hp => ⟨?init, rfl⟩⟩
  case phase0 => decide
  case pulse => decide
  case nibble => decide
  case init => rfl

end Sys2Proof.Machine
end

section
/-! SUPPORT. What everything but the timer makes of the timer's registers at one clock edge (spec/60_exceptions.md R144,
R147): `ARM` writes them all, anything else leaves `TCNT` and sets no flag. -/

namespace Sys2Proof.Machine

theorem armedBetween_iff {pre post : State} : armedBetween pre post = true ↔ pre.sub = .arm ∧ post.sub = .run := by
  simp [armedBetween]

/-- What everything but the timer makes of `pre` at an edge that does not perform `ARM`. -/
structure LeavesTimer (pre post : State) : Prop where
  notArmed : ¬ (pre.sub = .arm ∧ post.sub = .run)
  tcnt : post.tcnt = pre.tcnt
  setsNoFlag : pre.tifg = false → post.tifg = false

theorem LeavesTimer.of_eq {pre post : State} (hsub : post.sub = pre.sub) (htcnt : post.tcnt = pre.tcnt)
    (htifg : post.tifg = pre.tifg) : LeavesTimer pre post where
  notArmed := by simp +contextual [hsub]
  tcnt := htcnt
  setsNoFlag hclear := htifg.trans hclear

/-- An acceptance puts `SUB` at `ARM` but performs no sub-step (R27). -/
theorem leavesTimer_accept (op : Opcode) (arg : Arg) (s : State) : LeavesTimer s (accept op arg s) where
  notArmed := by simp
  tcnt := rfl
  setsNoFlag := id

/-- An edge of a running command performs `ARM` or leaves the timer to itself (R91, R100 to R104). -/
theorem exec_arms_or_leavesTimer {i : Instr} {s u : State} (h : exec i s = .next u) :
    (∃ n, s.sub = .arm ∧ u = waitArm n s) ∨ LeavesTimer s u := by
  rcases exec_next h with ⟨ps, hm, -⟩ | ⟨n, -, ⟨hsub, rfl⟩ | ⟨hsub, rfl⟩ | ⟨hsub, rfl⟩⟩
  · obtain ⟨-, -, htcnt, htifg, -, hsub⟩ := exec_body_keeps_timer h hm
    exact .inr (.of_eq hsub htcnt htifg)
  · exact .inl ⟨n, hsub, rfl⟩
  · exact .inr ⟨by simp [hsub], waitRun_tcnt s, waitRun_tifg_of_clear⟩
  · exact .inr ⟨by simp [hsub], rfl, id⟩

/-- At a clock edge without reset the writes of `ARM` stand, or the timer takes its turn on a state that left it to
itself (R147). -/
theorem step_arms_or_leavesTimer {s t : State} (h : step s = .next t) (hr : s.nextInputs.rst = false) :
    (∃ n, s.sub = .arm ∧ t = waitArm n (environment s.nextInputs s)) ∨
    (∃ u, LeavesTimer (environment s.nextInputs s) u ∧ t = timerEdge (environment s.nextInputs s) u) := by
  rcases step_next h with ⟨hrst, -⟩ | ⟨-, -, -, -, ht⟩ | ⟨-, -, -, ht⟩ | ⟨-, -, i, u, -, hu, ht⟩
  · exact absurd (hr.symm.trans hrst) Bool.false_ne_true
  · exact .inr ⟨_, leavesTimer_accept _ _ _, ht⟩
  · exact .inr ⟨_, .of_eq rfl rfl rfl, ht⟩
  · rcases exec_arms_or_leavesTimer hu with ⟨n, hsub, rfl⟩ | hleaves
    · exact .inl ⟨n, hsub, by rw [ht, timerEdge, if_pos (armedBetween_iff.mpr ⟨hsub, rfl⟩)]⟩
    · exact .inr ⟨u, hleaves, ht⟩

end Sys2Proof.Machine
end

section
/-! The statements of spec/60_exceptions.md. -/

namespace Sys2Proof.Machine

/-- Settles O23: an edge that does not perform `ARM` leaves the timer its own turn, in which it stands still, expires or
counts. -/
theorem timerCountsItsPeriod : Obligations.TimerCountsItsPeriod := by
  intro s t h hr
  rcases step_arms_or_leavesTimer h hr with ⟨n, hsub, rfl⟩ | ⟨u, ⟨hnot, htcnt, hclear⟩, rfl⟩
  · have harm : s.sub = .arm ∧ (waitArm n (environment s.nextInputs s)).sub = .run := ⟨hsub, rfl⟩
    exact ⟨fun _ hnot => absurd harm hnot, fun _ hnot => absurd harm hnot, fun _ hnot => absurd harm hnot,
      fun _ => ⟨rfl, rfl, rfl, rfl⟩, fun _ hset => absurd hset Bool.false_ne_true⟩
  · have hsetsNoFlag (h : s.tifg = false) (hset : u.tifg = true) : False :=
      Bool.false_ne_true ((hclear h).symm.trans hset)
    rcases timerEdge_cases (environment s.nextInputs s) u with
      ⟨harmed, -⟩ | ⟨-, hrun, ht⟩ | ⟨-, hrun, hc, ht⟩ | ⟨-, hrun, hc, ht⟩
    · exact absurd (armedBetween_iff.mp harmed) hnot
    all_goals
      rw [environment_trun] at hrun
      rw [ht, hrun]
    · exact ⟨nofun, nofun, fun _ _ => htcnt, (absurd · hnot), fun h hset => (hsetsNoFlag h hset).elim⟩
    · exact ⟨fun _ _ _ => ⟨rfl, rfl⟩, fun _ _ hne => absurd hc hne, nofun, (absurd · hnot), fun _ _ => ⟨rfl, hc⟩⟩
    · exact ⟨fun _ _ heq => absurd heq hc, fun _ _ _ => rfl, nofun, (absurd · hnot),
        fun h hset => (hsetsNoFlag h hset).elim⟩

/-- Settles O25: no wait is open while the block is idle or stands at a body, and the timer runs only in an open
wait. -/
theorem timerStoppedOutsideWaits : Obligations.TimerStoppedOutsideWaits := by
  rintro s hs (hp | ⟨i, ps, hd, hp, hm⟩)
  · exact hs.trun_of_idle hp
  · exact hs.trun_of_arm (hs.sub_of_body hp hd hm)

/-- Settles O11: the edge is the environment's turn and the turn of a stopped timer. -/
theorem idleBlockKeepsItsState : Obligations.IdleBlockKeepsItsState := by
  intro s hp htrun hr hv
  rw [step_of_no_command hr hp hv, timerEdge_of_stopped (pre := environment s.nextInputs s) _ htrun]
  rfl

end Sys2Proof.Machine
end

section
/-! SUPPORT. Rules of spec/70_reset_and_hazards.md: the length of a wait and of a command that is one micro-step (R178 to
R180). -/

namespace Sys2Proof.Machine

theorem waitCycles_of_pos (t : Nat) {n : Nat} (h : 1 ≤ n) : waitCycles t n = n * t + 4 :=
  if_neg (Nat.pos_iff_ne_zero.mp h)

/-- The acceptance cycle and the cycles of the command's only micro-step. -/
theorem commandCycles_of_single {i : Instr} {m : Micro} (hi : microSteps i = [m]) (t : Nat) :
    commandCycles t i = microCycles t m + 1 := by
  simp [commandCycles, stepsCycles, hi, Nat.add_comm]

theorem commandCycles_of_single_body {i : Instr} {ps : List Prim} (hi : microSteps i = [.body ps]) (t : Nat) :
    commandCycles t i = 2 :=
  commandCycles_of_single hi t

theorem commandCycles_delay (t : Nat) (n : Count) : commandCycles t (.delay n) = waitCycles t n.toNat + 1 :=
  commandCycles_of_single (m := .wait n) rfl t

end Sys2Proof.Machine
end

section
/-! The statements of spec/70_reset_and_hazards.md. -/

namespace Sys2Proof.Machine

/-- Settles O8: the edge is the environment's turn and then `resetEdge`, whatever the block was doing, and the
environment does not write `POUT[5:0]`. -/
theorem resetWinsAtAnyEdge : Obligations.ResetWinsAtAnyEdge := by
  intro s hr
  have hready : s.cmdReady = false := by simp [State.cmdReady, hr]
  refine ⟨hready, resetEdge (environment s.nextInputs s), step_reset hr, ?_⟩
  simp

/-- Settles O32: a command of one body takes its acceptance and one cycle, a delay its acceptance and its wait, and the
transfers are counted by `commandCycles_of_send`. -/
theorem commandCycleCounts : Obligations.CommandCycleCounts := by
  intro t
  refine ⟨fun _ => commandCycles_of_single_body rfl t, fun _ => commandCycles_of_single_body rfl t,
    fun _ => commandCycles_of_single_body rfl t, commandCycles_of_single_body rfl t, ?delayZero, fun n hn => ?delay,
    fun _ => commandCycles_of_send (.inl ⟨rfl, rfl⟩) t, fun _ => commandCycles_of_send (.inr ⟨rfl, rfl⟩) t⟩
  case delayZero => exact commandCycles_delay t 0
  case delay => rw [commandCycles_delay, waitCycles_of_pos t hn]

end Sys2Proof.Machine
end
